-- ==== Sys2Proof/Word.lean ====
section
/-! DEFINITION. The word types of RAK64 and the two sources of a first operand. -/

namespace Sys2Proof

/-- One byte of the register window (20_memory.md R63). -/
abbrev Byte := BitVec 8

/-- A 32-bit value: a command word, a control register, the data path of the bus (00_scope.md R6). -/
abbrev Word := BitVec 32

/-- A 64-bit operand or result (00_scope.md R6, `W = 64`). -/
abbrev Dword := BitVec 64

/-- A 65-bit two's complement Bezout coefficient (00_scope.md R6, 10_state.md R42). -/
abbrev Coeff := BitVec 65

/-- Field `AS` of a command word: where the first operand comes from (30_encoding.md R90, R92). -/
inductive OperandSource where
  | opa   -- `AS = 0`
  | res   -- `AS = 1`
deriving DecidableEq, Repr

end Sys2Proof
end

