-- ==== Sys2Proof/Config.lean ====
section
/-! DEFINITION. What is fixed for one RAK64 (00_scope.md R6) and the parameters the spec leaves open. -/

namespace Sys2Proof

/-- The constant of register `ID` (10_state.md R36): ASCII `R`, `A`, `K`, then `0x07`. -/
def Config.idValue : Word := 0x52414B07#32

/-- The size of the register window in bytes (20_memory.md R60). -/
def Config.windowBytes : Nat := 128

/-- `BASE / 128`. The spec leaves `BASE` open and asks only that it be a multiple of 128 (20_memory.md R60),
so the value has no body and nothing can be proved of it (assumption 7). -/
opaque Config.baseIndex : Nat

/-- The bus address of the window's first byte (20_memory.md R60). -/
def Config.base : Nat := Config.windowBytes * Config.baseIndex

/-- The largest committed iteration count of `MODEXP` and `FERMAT` (70_reset_and_hazards.md R262). -/
def Config.maxPowerSteps : Nat := 64

/-- The largest committed iteration count of `GCD`, `EGCD` and `MODINV` (70_reset_and_hazards.md R262). -/
def Config.maxEuclidSteps : Nat := 92

/-- The parameters of the host's key generation (00_scope.md R6, 44_host_keygen.md R183, R188).
They are no state of the block. -/
structure KeyParams where
  /-- candidates are drawn from `[2^lowBits, 2^highBits)` (R180) -/
  lowBits : Nat := 2
  highBits : Nat := 32
  /-- exponents are drawn from `[0, 2^eBits)` (R183) -/
  eBits : Nat := 5
  /-- the spec's OPEN parameter, false as in the source (R188) -/
  rejectEqualPrimes : Bool := false
deriving DecidableEq, Repr

end Sys2Proof
end

