-- ==== Sys2Proof/Syntax.lean ====
section
/-! DEFINITION. The commands of RAK64: one constructor per row of spec/opcode_table.json (30_encoding.md R93). -/

namespace Sys2Proof

/-- A decoded command (30_encoding.md R95). The operand is field `AS`; `NOP` keeps none, because both of its
words decode to the same command and `AS` has no effect on it (R92, R95). -/
inductive Instr where
  /-- `OPC = 0`, 40_command_lifecycle.md R116 -/
  | nop
  /-- `OPC = 1`, 43_modexp_mulmod.md R160 -/
  | modexp (src : OperandSource)
  /-- `OPC = 2`, 43_modexp_mulmod.md R165 -/
  | mulmod (src : OperandSource)
  /-- `OPC = 3`, 42_gcd_egcd_modinv.md R140 -/
  | gcd (src : OperandSource)
  /-- `OPC = 4`, 42_gcd_egcd_modinv.md R145 -/
  | egcd (src : OperandSource)
  /-- `OPC = 5`, 42_gcd_egcd_modinv.md R151 -/
  | modinv (src : OperandSource)
  /-- `OPC = 6`, 41_fermat.md R130 -/
  | fermat (src : OperandSource)
deriving DecidableEq, Repr

end Sys2Proof
end

