-- ==== Sys2Proof/WellFormed.lean ====
section
/-! DEFINITION. Which commands and which command words are well formed. -/

namespace Sys2Proof

/-- Every command is well formed: its one field, `AS`, takes each of its two values (30_encoding.md R90, R93).
The match names every constructor, so that a command with a restricted field could not slip past. -/
def Instr.wf : Instr → Bool
  | .nop => true
  | .modexp _ => true
  | .mulmod _ => true
  | .gcd _ => true
  | .egcd _ => true
  | .modinv _ => true
  | .fermat _ => true

/-- The reserved bits 31:5 of a command word are all 0 (30_encoding.md R90). -/
def reservedBitsClear (w : Word) : Bool := w.toNat / 32 == 0

/-- The opcode, bits 3:0, is one of 0 to 6 (30_encoding.md R93). -/
def opcodeAssigned (w : Word) : Bool := w.toNat % 16 < 7

/-- A word is legal iff it is not illegal in the sense of 30_encoding.md R94. Stated with numbers and apart from
the decoder, so that the two can be proved to agree. -/
def legalWord (w : Word) : Bool := reservedBitsClear w && opcodeAssigned w

end Sys2Proof
end

