-- ==== Sys2Proof/Decode.lean ====
section
/-! DEFINITION. The decoder (30_encoding.md R95), total on 32-bit words and on byte lists, the encoder, and the
textual form of a command (R96). -/

namespace Sys2Proof

/-- Why a word or a byte list is no command. -/
inductive DecodeError where
  /-- fewer than four bytes: a command is exactly 32 bits (30_encoding.md R91) -/
  | truncated
  /-- a bit of 31:5 is set (30_encoding.md R94) -/
  | reservedBits
  /-- the opcode is 7 to 15 (30_encoding.md R94) -/
  | reservedOpcode
deriving DecidableEq, Repr

/-- What the decoder answers. -/
inductive Decoded (α : Type) where
  | ok (a : α)
  | illegal (e : DecodeError)
deriving DecidableEq, Repr

/-- Field `AS`, bit 4 (30_encoding.md R90). -/
def asField (w : Word) : OperandSource := if w.getLsbD 4 then .res else .opa

/-- `decode(w)` of 30_encoding.md R95. -/
def decodeWord (w : Word) : Decoded Instr :=
  if w.extractLsb' 5 27 = 0#27 then
    match (w.extractLsb' 0 4).toNat with
    | 0 => .ok .nop
    | 1 => .ok (.modexp (asField w))
    | 2 => .ok (.mulmod (asField w))
    | 3 => .ok (.gcd (asField w))
    | 4 => .ok (.egcd (asField w))
    | 5 => .ok (.modinv (asField w))
    | 6 => .ok (.fermat (asField w))
    | _ => .illegal .reservedOpcode
  else .illegal .reservedBits

/-- The word of four bytes in window order: the first byte is the most significant (20_memory.md R63,
30_encoding.md R90). -/
def wordOfBytes (b0 b1 b2 b3 : Byte) : Word := b0 ++ b1 ++ b2 ++ b3

/-- The four bytes of a word in window order (20_memory.md R63). -/
def bytesOfWord (w : Word) : List Byte :=
  [w.extractLsb' 24 8, w.extractLsb' 16 8, w.extractLsb' 8 8, w.extractLsb' 0 8]

/-- Decoding from bytes as they lie on the window's offsets 0 to 3, with the rest of the list. -/
def decode : List Byte → Decoded (Instr × List Byte)
  | b0 :: b1 :: b2 :: b3 :: rest =>
    match decodeWord (wordOfBytes b0 b1 b2 b3) with
    | .ok i => .ok (i, rest)
    | .illegal e => .illegal e
  | _ => .illegal .truncated

/-- The command word of a row of spec/opcode_table.json given as its `nbits` low bits, bits above them 0. A command
is one word (30_encoding.md R91), so bit `k` of the table's numbering is bit `k` of the word. -/
def tableWord (nbits w : Nat) : Word := BitVec.ofNat 32 (w % 2 ^ nbits)

/-- The command the decoder reads from a word of the opcode table. -/
def decodeTableWord (nbits w : Nat) : Option Instr :=
  match decode (bytesOfWord (tableWord nbits w)) with
  | .ok (i, _) => some i
  | .illegal _ => none

/-- The opcode of a command (30_encoding.md R93). -/
def Instr.opcode : Instr → BitVec 4
  | .nop => 0
  | .modexp _ => 1
  | .mulmod _ => 2
  | .gcd _ => 3
  | .egcd _ => 4
  | .modinv _ => 5
  | .fermat _ => 6

/-- Where the command takes its first operand from; `NOP` reads none and encodes with `AS = 0` (30_encoding.md R95). -/
def Instr.source : Instr → OperandSource
  | .nop => .opa
  | .modexp src => src
  | .mulmod src => src
  | .gcd src => src
  | .egcd src => src
  | .modinv src => src
  | .fermat src => src

/-- The bit that stands for an operand source (30_encoding.md R90). -/
def OperandSource.bit : OperandSource → BitVec 1
  | .opa => 0
  | .res => 1

/-- The word of a command (30_encoding.md R90, R93; `NOP` is `0x00000000`, R95). -/
def encode (i : Instr) : Word := (0#27 : BitVec 27) ++ i.source.bit ++ i.opcode

/-- The mnemonic of a command in lower case, without the suffix (30_encoding.md R96). -/
def Instr.mnemonic : Instr → String
  | .nop => "nop"
  | .modexp _ => "modexp"
  | .mulmod _ => "mulmod"
  | .gcd _ => "gcd"
  | .egcd _ => "egcd"
  | .modinv _ => "modinv"
  | .fermat _ => "fermat"

/-- The suffix `.r` is written when `AS = 1` (30_encoding.md R96). -/
def OperandSource.suffix : OperandSource → String
  | .opa => ""
  | .res => ".r"

/-- The text of a legal command word (30_encoding.md R96); it is written from the word, because the two words of
`NOP` have different texts and one meaning. -/
def disassemble (w : Word) : Option String :=
  match decodeWord w with
  | .ok i => some (i.mnemonic ++ (asField w).suffix)
  | .illegal _ => none

/-- The fourteen rows of the table of 30_encoding.md R96. -/
def assemblerTable : List (String × Word) :=
  [("nop", 0x00000000#32), ("nop.r", 0x00000010#32),
   ("modexp", 0x00000001#32), ("modexp.r", 0x00000011#32),
   ("mulmod", 0x00000002#32), ("mulmod.r", 0x00000012#32),
   ("gcd", 0x00000003#32), ("gcd.r", 0x00000013#32),
   ("egcd", 0x00000004#32), ("egcd.r", 0x00000014#32),
   ("modinv", 0x00000005#32), ("modinv.r", 0x00000015#32),
   ("fermat", 0x00000006#32), ("fermat.r", 0x00000016#32)]

/-- The word of a command's text (30_encoding.md R96). -/
def assemble (text : String) : Option Word :=
  (assemblerTable.find? (fun row => row.1 == text)).map (·.2)

end Sys2Proof
end

