-- ==== Sys2Proof/Machine/Bus.lean ====
section
/-! DEFINITION. The window's register map, the legality of an access, and the vocabulary of the three agents:
transactions, replies and scheduled steps (20_memory.md, 00_scope.md R10). -/

namespace Sys2Proof.Machine

/-- The `size` pins (20_memory.md R72): 1, 2, 4 bytes, or the illegal code 3. -/
inductive Size where
  | b1
  | b2
  | b4
  | illegal
deriving DecidableEq, Repr

/-- The number of bytes of a transaction; code 3 would be 8 bytes (95_test_vectors.md W10). -/
def Size.bytes : Size → Nat
  | .b1 => 1
  | .b2 => 2
  | .b4 => 4
  | .illegal => 8

/-- The registers of the window (20_memory.md R61). -/
inductive Reg where
  | cmd | status | ctrl | iter | opa | opb | opm | res | gcd | ex | ey | id
deriving DecidableEq, Repr

/-- Control-class registers take 4-byte accesses only (20_memory.md R61, R65). -/
def Reg.isControl : Reg → Bool
  | .cmd | .status | .ctrl | .iter | .id => true
  | .opa | .opb | .opm | .res | .gcd | .ex | .ey => false

/-- The size of a register in bytes (20_memory.md R61). -/
def Reg.bytes (r : Reg) : Nat := if r.isControl then 4 else 8

/-- One row of the register map. -/
structure MapRow where
  offset : Nat
  reg : Reg
deriving DecidableEq, Repr

/-- The register map (20_memory.md R61). Every offset of no row is reserved (R62). -/
def registerMap : List MapRow :=
  [⟨0x00, .cmd⟩, ⟨0x04, .status⟩, ⟨0x08, .ctrl⟩, ⟨0x0C, .iter⟩, ⟨0x10, .opa⟩, ⟨0x18, .opb⟩, ⟨0x20, .opm⟩,
   ⟨0x30, .res⟩, ⟨0x38, .gcd⟩, ⟨0x40, .ex⟩, ⟨0x48, .ey⟩, ⟨0x7C, .id⟩]

/-- The register that holds the byte at an offset, and which byte of it that is; none where it is reserved. -/
def regAt (off : Nat) : Option (Reg × Nat) :=
  match registerMap.find? (fun row => row.offset ≤ off && off < row.offset + row.reg.bytes) with
  | some row => some (row.reg, off - row.offset)
  | none => none

/-- The offsets an access touches. -/
def touched (off : BitVec 7) (n : Size) : List Nat :=
  (List.range n.bytes).map (off.toNat + ·)

/-- A byte that is not reserved (20_memory.md R62). -/
def mapped (off : Nat) : Bool := (regAt off).isSome

/-- A byte of a control-class register. -/
def controlByte (off : Nat) : Bool :=
  match regAt off with
  | some (r, _) => r.isControl
  | none => false

/-- The legal accesses: conditions (a) to (e) of 20_memory.md R65. -/
def legalAccess (off : BitVec 7) (n : Size) : Bool :=
  (n.bytes == 1 || n.bytes == 2 || n.bytes == 4)
    && off.toNat % n.bytes == 0
    && off.toNat + n.bytes ≤ Config.windowBytes
    && (touched off n).all mapped
    && (!(touched off n).any controlByte || n.bytes == 4)

/-- The byte offset of a bus address, where the address is one of RAK64's (20_memory.md R60, R70); an address outside
`[BASE, BASE + 0x80)` is no access to the block (assumption 7). -/
def windowOffset (addr : Nat) : Option (BitVec 7) :=
  if Config.base ≤ addr ∧ addr < Config.base + Config.windowBytes then
    some (BitVec.ofNat 7 (addr - Config.base))
  else none

/-- A host transaction (20_memory.md R66, R67). `v` is `wdata`, right-justified; its bits above the access's width are
ignored (R72). -/
inductive Transaction where
  | read (off : BitVec 7) (n : Size)
  | write (off : BitVec 7) (n : Size) (v : Word)
deriving DecidableEq, Repr

/-- How a transaction ends: exactly one of data, acknowledge and bus error (20_memory.md R66 to R68, R72). -/
inductive Reply where
  /-- a legal read's value on the 32-bit data path -/
  | data (v : Word)
  /-- a legal write, taken or ignored -/
  | ack
  /-- an illegal access; a read returns no value -/
  | busError
deriving DecidableEq, Repr

/-- One scheduled step of one agent (00_scope.md R10). -/
inductive Action where
  /-- the host's transaction -/
  | bus (t : Transaction)
  /-- the engine's enabled step, if it has one -/
  | engine
  /-- the reset step -/
  | reset
deriving DecidableEq, Repr

end Sys2Proof.Machine
end

