-- ==== Sys2Proof/Machine/State.lean ====
section
/-! DEFINITION. The state of RAK64 (10_state.md R20), the reasons a step can stop, and the state after reset
(10_state.md R44). -/

namespace Sys2Proof.Machine

/-- The sequencer phase, the block's stand-in for a program counter (10_state.md R39). -/
inductive Phase where
  | idle
  | run
deriving DecidableEq, Repr

/-- The two command errors (60_exceptions.md R215, R216). Codes 3 to 7 are never produced, so they have no name. -/
inductive CmdError where
  | illCmd
  | modZero
deriving DecidableEq, Repr

/-- The snapshot taken at accept (10_state.md R40). -/
structure Snapshot where
  cmd : Word
  a : Dword
  b : Dword
  m : Dword
deriving DecidableEq, Repr

/-- The kernel working registers (10_state.md R42). -/
structure Kernel where
  /-- running result of `MODEXP` and `FERMAT` -/
  r : Dword
  base : Dword
  /-- exponent -/
  e : Dword
  /-- modulus -/
  n : Dword
  /-- bit index, counts down -/
  i : BitVec 7
  /-- remainders of the Euclid datapath -/
  r0 : Dword
  r1 : Dword
  /-- signed coefficients of the Euclid datapath -/
  s0 : Coeff
  s1 : Coeff
  t0 : Coeff
  t1 : Coeff
  /-- `iterate` steps so far -/
  iter : BitVec 7
deriving DecidableEq, Repr

/-- The state. The first five groups are the spec's (10_state.md R20); the last is the model's own: the schedule of
the agents (assumption 1) and the answer of the last transaction (assumption 6). `STATUS.BUSY`, `ID` and `irq` hold
nothing of their own: they are read from `phase`, `Config.idValue`, and `ie` with `done` (R30, R36, R43). -/
structure State where
  /-- operand registers (10_state.md R21 to R23) -/
  opa : Dword
  opb : Dword
  opm : Dword
  /-- result registers (10_state.md R24 to R27) -/
  res : Dword
  gcd : Dword
  ex : Dword
  ey : Dword
  /-- the last accepted word (10_state.md R28) -/
  cmd : Word
  /-- the fields of `STATUS` (10_state.md R31 to R35, R37) -/
  done : Bool
  ovr : Bool
  err : Option CmdError
  prime : Bool
  coprime : Bool
  xs : Bool
  ys : Bool
  /-- `CTRL.IE` (10_state.md R38) -/
  ie : Bool
  /-- `ITER` (10_state.md R41) -/
  iter : Word
  /-- hidden state (10_state.md R39, R40, R42) -/
  phase : Phase
  w : Snapshot
  k : Kernel
  /-- the model's own: the steps still to come, first first -/
  pending : List Action
  /-- the model's own: how the last transaction ended, none before the first -/
  reply : Option Reply
deriving DecidableEq, Repr

/-- Why a step stops the machine. There is no constructor: nothing stops RAK64. A command error ends in a commit
(60_exceptions.md R217), an illegal access in the reply `busError` with the state unchanged (20_memory.md R68), and
both are next states. Safe (assumption 12). -/
inductive Fault where
deriving DecidableEq, Repr

/-- Why a step is not modelled. -/
inductive Refusal where
  /-- Raised only by an arm of `exec` whose instruction has no meaning yet; no arm does. Safe. -/
  | notModelled (mnemonic : String)
deriving DecidableEq, Repr

/-- The snapshot at reset. The spec gives no value and no rule reads it before accept writes it (10_state.md R40).
DESIGN CHOICE (assumption 4). -/
def Snapshot.reset : Snapshot := { cmd := 0, a := 0, b := 0, m := 0 }

/-- The kernel registers at reset. As for the snapshot (10_state.md R42). DESIGN CHOICE (assumption 4). -/
def Kernel.reset : Kernel :=
  { r := 0, base := 0, e := 0, n := 0, i := 0, r0 := 0, r1 := 0, s0 := 0, s1 := 0, t0 := 0, t1 := 0, iter := 0 }

/-- The machine right after reset (10_state.md R44), with nothing scheduled. -/
def State.reset : State :=
  { opa := 0, opb := 0, opm := 0, res := 0, gcd := 0, ex := 0, ey := 0, cmd := 0,
    done := false, ovr := false, err := none, prime := false, coprime := false, xs := false, ys := false,
    ie := false, iter := 0, phase := .idle, w := Snapshot.reset, k := Kernel.reset,
    pending := [], reply := none }

end Sys2Proof.Machine
end

