-- ==== Sys2Proof/Machine/Operands.lean ====
section
/-! DEFINITION. The arithmetic primitives of 00_scope.md R8, the operand assembly of a command (30_encoding.md R92),
and the byte fields of the window's registers (20_memory.md R63). -/

namespace Sys2Proof.Machine

/-- `bitlen(v)` (00_scope.md R8): 0 for 0, else the `k` with `2^(k-1) <= v < 2^k`. -/
def bitlen (v : Nat) : Nat := if v = 0 then 0 else Nat.log2 v + 1

/-- `v rem m` (00_scope.md R8): the truncated remainder, with the sign of `v`. -/
def truncRem (v : Int) (m : Nat) : Int := Int.sign v * (v.natAbs % m : Nat)

/-- The low 64 bits of `tc65(z)` (00_scope.md R8): `z` modulo `2^64`. -/
def tc65Low (z : Int) : Dword := BitVec.ofInt 64 z

/-- The sign flag of `tc65(z)` (00_scope.md R8). -/
def tc65Sign (z : Int) : Bool := decide (z < 0)

/-- The integer of a register and its sign flag (00_scope.md R8, 10_state.md R26): `lo - 2^64 * s`. -/
def tc65Value (lo : Dword) (s : Bool) : Int := (lo.toNat : Int) - (if s then 2 ^ 64 else 0)

/-- The first operand of a command (30_encoding.md R92). -/
def firstOperand (src : OperandSource) (s : State) : Dword :=
  match src with
  | .opa => s.opa
  | .res => s.res

/-- The snapshot accept takes for a word, legal or not (10_state.md R40, 40_command_lifecycle.md R111). -/
def snapshot (v : Word) (s : State) : Snapshot :=
  { cmd := v, a := firstOperand (asField v) s, b := s.opb, m := s.opm }

/-- Byte `k` of a register of `bytes` bytes, byte 0 the most significant (20_memory.md R63). -/
def byteOf (d : Dword) (bytes k : Nat) : Byte := d.extractLsb' (8 * (bytes - 1 - k)) 8

/-- A data register with byte `k` replaced (20_memory.md R63, R67). -/
def setByte (d : Dword) (k : Nat) (b : Byte) : Dword :=
  let at' := 8 * (7 - k)
  (d &&& ~~~(0xFF#64 <<< at')) ||| (b.setWidth 64 <<< at')

/-- Byte `j` of the `n` bytes of a write value (20_memory.md R67). -/
def valueByte (v : Word) (n j : Nat) : Byte := v.extractLsb' (8 * (n - 1 - j)) 8

/-- A data register whose bytes `k` to `k + n - 1` take the big-endian bytes of `v`; the others keep their values
(20_memory.md R67). -/
def spliceBytes (d : Dword) (k n : Nat) (v : Word) : Dword :=
  (List.range n).foldl (fun acc j => setByte acc (k + j) (valueByte v n j)) d

end Sys2Proof.Machine
end

