-- ==== Sys2Proof/Machine/Flags.lean ====
section
/-! DEFINITION. The result flags and the words of `STATUS` and `CTRL` (10_state.md R29 to R38, R43). -/

namespace Sys2Proof.Machine

/-- `STATUS.BUSY` (10_state.md R30). -/
def busy (s : State) : Bool := s.phase == .run

/-- The `irq` pin (10_state.md R43, 60_exceptions.md R223). -/
def irq (s : State) : Bool := s.ie && s.done

/-- The code of `STATUS.ERR` (60_exceptions.md R216). -/
def errCode : Option CmdError → BitVec 3
  | none => 0
  | some .illCmd => 1
  | some .modZero => 2

/-- The word `STATUS` reads as (10_state.md R29); bits 31:12, 7 and 3 are reserved and read 0. -/
def statusWord (s : State) : Word :=
  (0#20 : BitVec 20) ++ BitVec.ofBool s.ys ++ BitVec.ofBool s.xs ++ BitVec.ofBool s.coprime
    ++ BitVec.ofBool s.prime ++ (0#1 : BitVec 1) ++ errCode s.err ++ (0#1 : BitVec 1)
    ++ BitVec.ofBool s.ovr ++ BitVec.ofBool s.done ++ BitVec.ofBool (busy s)

/-- The word `CTRL` reads as (10_state.md R38); bits 31:1 are reserved and read 0. -/
def ctrlWord (s : State) : Word := (0#31 : BitVec 31) ++ BitVec.ofBool s.ie

/-- The verdict `COPRIME` of two operands and their gcd (42_gcd_egcd_modinv.md R142): a zero operand is never coprime. -/
def coprimeVerdict (a b g : Nat) : Bool := a != 0 && b != 0 && g == 1

/-- The verdict `PRIME` of a residue (41_fermat.md R130). -/
def primeVerdict (r : Nat) : Bool := r == 1

end Sys2Proof.Machine
end

