-- ==== Sys2Proof/Machine/Kernel.lean ====
section
/-! DEFINITION. The two datapaths on the hidden kernel registers: square-and-multiply (43_modexp_mulmod.md R161,
41_fermat.md R131) and Euclid (42_gcd_egcd_modinv.md R143). -/

namespace Sys2Proof.Machine

/-- `(a * b) mod n` with the exact double-width product (40_command_lifecycle.md R120). No rule evaluates it with
`n = 0` (assumption 11). -/
def mulMod (a b n : Dword) : Dword := BitVec.ofNat 64 (a.toNat * b.toNat % n.toNat)

/-- `a mod n`, exact. No rule evaluates it with `n = 0` (assumption 11). -/
def reduce (a n : Nat) : Dword := BitVec.ofNat 64 (a % n)

/-- The initial values of the square-and-multiply datapath for base `a`, exponent `e`, modulus `n`
(43_modexp_mulmod.md R161). -/
def powerInit (a : Nat) (e n : Dword) (k : Kernel) : Kernel :=
  { k with
    n := n
    e := e
    base := reduce a n.toNat
    r := reduce 1 n.toNat
    i := BitVec.ofNat 7 (bitlen e.toNat) }

/-- `more(k)` of the square-and-multiply datapath: `k.i > 0` (43_modexp_mulmod.md R161). -/
def powerMore (k : Kernel) : Bool := k.i != 0

/-- One `iterate` step of the square-and-multiply datapath (43_modexp_mulmod.md R161). -/
def powerBody (k : Kernel) : Kernel :=
  let i := k.i - 1
  let square := mulMod k.r k.r k.n
  { k with
    r := if k.e.getLsbD i.toNat then mulMod square k.base k.n else square
    i := i
    iter := k.iter + 1 }

/-- The initial values of the Euclid datapath for operands `a`, `b` (42_gcd_egcd_modinv.md R143). -/
def euclidInit (a b : Dword) (k : Kernel) : Kernel :=
  { k with r0 := a, r1 := b, s0 := 1, s1 := 0, t0 := 0, t1 := 1 }

/-- `more(k)` of the Euclid datapath: `k.r1 != 0` (42_gcd_egcd_modinv.md R143). -/
def euclidMore (k : Kernel) : Bool := k.r1 != 0

/-- `c0 - q * c1` formed exactly and held in a 65-bit coefficient register (10_state.md R42, assumption 9). -/
def nextCoeff (q : Nat) (c0 c1 : Coeff) : Coeff := BitVec.ofInt 65 (c0.toInt - q * c1.toInt)

/-- One `iterate` step of the Euclid datapath, all assignments from the values before it
(42_gcd_egcd_modinv.md R143). -/
def euclidBody (k : Kernel) : Kernel :=
  let q := k.r0.toNat / k.r1.toNat
  { k with
    r0 := k.r1
    r1 := BitVec.ofNat 64 (k.r0.toNat - q * k.r1.toNat)
    s0 := k.s1
    s1 := nextCoeff q k.s0 k.s1
    t0 := k.t1
    t1 := nextCoeff q k.t0 k.t1
    iter := k.iter + 1 }

/-- What accept puts into the kernel registers for a snapshot (40_command_lifecycle.md R111): `k.iter` is 0 for every
word; the rest is the command's datapath rule, and nothing for `NOP`, `MULMOD`, an illegal word, and a zero modulus
(R131, R161 initialise only when it is not 0). Registers no rule initialises keep their values (assumption 5). -/
def kernelInit (w : Snapshot) (k : Kernel) : Kernel :=
  let k := { k with iter := 0 }
  match decodeWord w.cmd with
  | .ok .nop => k
  | .ok (.modexp _) => if w.m = 0 then k else powerInit w.a.toNat w.b w.m k
  | .ok (.mulmod _) => k
  | .ok (.gcd _) => euclidInit w.a w.b k
  | .ok (.egcd _) => euclidInit w.a w.b k
  | .ok (.modinv _) => euclidInit w.a w.m k
  | .ok (.fermat _) => if w.a = 0 then k else powerInit 2 (w.a - 1) w.a k
  | .illegal _ => k

end Sys2Proof.Machine
end

