-- ==== Sys2Proof/Machine/Ops.lean ====
section
/-! DEFINITION. The shared operations: accept and overrun, commit with its two arms (the error arm is the block's
exception entry), the acknowledge (its return), the window's reads and writes, and reset. -/

namespace Sys2Proof.Machine

/-! Commit. -/

/-- What a command that ends without error writes (40_command_lifecycle.md R114 `Ok(writes, n)`): a register or flag
it does not name keeps its value (R117). -/
structure Writes where
  res : Option Dword := none
  gcd : Option Dword := none
  /-- Bezout coefficients, for `EX`/`XS` and `EY`/`YS` -/
  x : Option Int := none
  y : Option Int := none
  prime : Option Bool := none
  coprime : Option Bool := none
  /-- the iteration count -/
  n : Nat
deriving DecidableEq, Repr

/-- `outcome(w)` of 40_command_lifecycle.md R114. -/
inductive CommandResult where
  | error (c : CmdError)
  | ok (ws : Writes)
deriving DecidableEq, Repr

/-- TAKING A COMMAND ERROR (60_exceptions.md R217), the error arm of the commit: the complete effect. -/
def raiseError (c : CmdError) (s : State) : State :=
  { s with err := some c, iter := 0, done := true, phase := .idle }

/-- The arm of the commit without error (40_command_lifecycle.md R114). -/
def commitOk (ws : Writes) (s : State) : State :=
  { s with
    res := ws.res.getD s.res
    gcd := ws.gcd.getD s.gcd
    ex := (ws.x.map tc65Low).getD s.ex
    xs := (ws.x.map tc65Sign).getD s.xs
    ey := (ws.y.map tc65Low).getD s.ey
    ys := (ws.y.map tc65Sign).getD s.ys
    prime := ws.prime.getD s.prime
    coprime := ws.coprime.getD s.coprime
    err := none
    iter := BitVec.ofNat 32 ws.n
    done := true
    phase := .idle }

/-- The commit step (40_command_lifecycle.md R114). -/
def commit (r : CommandResult) (s : State) : State :=
  match r with
  | .error c => raiseError c s
  | .ok ws => commitOk ws s

/-- The engine's one enabled step (40_command_lifecycle.md R113): `iterate` iff the command has no error condition and
`more` holds, else `commit`. `r` is what the commit would write. -/
def engineStep (r : CommandResult) (more : Bool) (body : Kernel → Kernel) (s : State) : State :=
  match r with
  | .error c => commit (.error c) s
  | .ok ws => if more then { s with k := body s.k } else commit (.ok ws) s

/-! Accept, overrun, acknowledge, reset. -/

/-- Accept (40_command_lifecycle.md R111), for every word, legal or not. -/
def accept (v : Word) (s : State) : State :=
  { s with
    cmd := v
    w := snapshot v s
    k := kernelInit (snapshot v s) s.k
    done := false
    err := none
    phase := .run }

/-- Overrun (40_command_lifecycle.md R112): the word is lost. -/
def overrun (s : State) : State := { s with ovr := true }

/-- A 4-byte write to `CMD` (10_state.md R28). -/
def writeCmd (v : Word) (s : State) : State :=
  match s.phase with
  | .idle => accept v s
  | .run => overrun s

/-- A 4-byte write to `STATUS` (20_memory.md R67): bits 1 and 2 clear `DONE` and `OVR`. Clearing `DONE` is the block's
RETURN FROM AN ERROR (60_exceptions.md R230): `ERR` stays readable. -/
def writeStatus (v : Word) (s : State) : State :=
  { s with done := s.done && !v.getLsbD 1, ovr := s.ovr && !v.getLsbD 2 }

/-- A 4-byte write to `CTRL` (10_state.md R38). -/
def writeCtrl (v : Word) (s : State) : State := { s with ie := v.getLsbD 0 }

/-- The reset step (70_reset_and_hazards.md R245, R246): every piece of the block's state takes its reset value, and a
running command is discarded. The steps still scheduled are the environment's and stay (assumption 1). -/
def resetStep (s : State) : State := { State.reset with pending := s.pending }

/-! The window. -/

/-- The contents of a register, a 32-bit one zero-extended (10_state.md R20). -/
def regValue (r : Reg) (s : State) : Dword :=
  match r with
  | .cmd => s.cmd.setWidth 64
  | .status => (statusWord s).setWidth 64
  | .ctrl => (ctrlWord s).setWidth 64
  | .iter => s.iter.setWidth 64
  | .opa => s.opa
  | .opb => s.opb
  | .opm => s.opm
  | .res => s.res
  | .gcd => s.gcd
  | .ex => s.ex
  | .ey => s.ey
  | .id => Config.idValue.setWidth 64

/-- The byte at an offset of the window (20_memory.md R63); none where it is reserved (R62). -/
def readByte (off : Nat) (s : State) : Option Byte :=
  match regAt off with
  | some (r, k) => some (byteOf (regValue r s) r.bytes k)
  | none => none

/-- The bytes at `off, ..., off + n - 1` assembled big-endian and zero-extended to 32 bits (20_memory.md R64, R66). -/
def readValue (off : BitVec 7) (n : Size) (s : State) : Word :=
  (touched off n).foldl (fun acc o => (acc <<< 8) ||| ((readByte o s).getD 0).setWidth 32) 0

/-- `MemRead(off, n)` (20_memory.md R66, R68). -/
def memRead (off : BitVec 7) (n : Size) (s : State) : Reply :=
  if legalAccess off n then .data (readValue off n s) else .busError

/-- The effect of a legal write on register `r`, at byte `k` of it (20_memory.md R67, R69). -/
def writeReg (r : Reg) (k : Nat) (n : Size) (v : Word) (s : State) : State :=
  match r with
  | .opa => { s with opa := spliceBytes s.opa k n.bytes v }
  | .opb => { s with opb := spliceBytes s.opb k n.bytes v }
  | .opm => { s with opm := spliceBytes s.opm k n.bytes v }
  | .cmd => writeCmd v s
  | .status => writeStatus v s
  | .ctrl => writeCtrl v s
  | .res => s
  | .gcd => s
  | .ex => s
  | .ey => s
  | .iter => s
  | .id => s

/-- `MemWrite(off, n, v)`: the state after it (20_memory.md R67), unchanged where the access is illegal (R68). -/
def memWrite (off : BitVec 7) (n : Size) (v : Word) (s : State) : State :=
  if legalAccess off n then
    match regAt off.toNat with
    | some (r, k) => writeReg r k n v s
    | none => s
  else s

/-- How `MemWrite(off, n, v)` ends (20_memory.md R68, R69, R72). -/
def writeReply (off : BitVec 7) (n : Size) : Reply :=
  if legalAccess off n then .ack else .busError

/-- One host transaction, atomic (20_memory.md R71). -/
def busStep (t : Transaction) (s : State) : State :=
  match t with
  | .read off n => { s with reply := some (memRead off n s) }
  | .write off n v => { memWrite off n v s with reply := some (writeReply off n) }

end Sys2Proof.Machine
end

