-- ==== Sys2Proof/Machine/Euclid.lean ====
section
/-! DEFINITION. The meanings of `GCD`, `EGCD` and `MODINV` (42_gcd_egcd_modinv.md).

A meaning is the engine's step on the running command (40_command_lifecycle.md R113); see Power.lean on the operand
source. -/

namespace Sys2Proof.Machine

/-- What a `GCD` commits when its loop is done (42_gcd_egcd_modinv.md R140). -/
def gcdResult (s : State) : CommandResult :=
  .ok { gcd := some s.k.r0
        coprime := some (coprimeVerdict s.w.a.toNat s.w.b.toNat s.k.r0.toNat)
        n := s.k.iter.toNat }

/-- `GCD` (42_gcd_egcd_modinv.md R140, R143). -/
def execGcd (_src : OperandSource) (s : State) : Host.Outcome State Fault Refusal :=
  .next (engineStep (gcdResult s) (euclidMore s.k) euclidBody s)

/-- What an `EGCD` commits when its loop is done (42_gcd_egcd_modinv.md R145). -/
def egcdResult (s : State) : CommandResult :=
  .ok { gcd := some s.k.r0
        x := some s.k.s0.toInt
        y := some s.k.t0.toInt
        coprime := some (coprimeVerdict s.w.a.toNat s.w.b.toNat s.k.r0.toNat)
        n := s.k.iter.toNat }

/-- `EGCD` (42_gcd_egcd_modinv.md R145, R143). -/
def execEgcd (_src : OperandSource) (s : State) : Host.Outcome State Fault Refusal :=
  .next (engineStep (egcdResult s) (euclidMore s.k) euclidBody s)

/-- `inv` of 42_gcd_egcd_modinv.md R151: 0 when `m = 0`, else `x rem m` with `m` added when negative. -/
def inverseOf (x : Int) (m : Nat) : Int :=
  if m = 0 then 0
  else
    let t := truncRem x m
    if t < 0 then t + m else t

/-- What a `MODINV` commits when its loop is done (42_gcd_egcd_modinv.md R151). -/
def modinvResult (s : State) : CommandResult :=
  .ok { res := some (BitVec.ofInt 64 (inverseOf s.k.s0.toInt s.w.m.toNat))
        gcd := some s.k.r0
        x := some s.k.s0.toInt
        y := some s.k.t0.toInt
        coprime := some (coprimeVerdict s.w.a.toNat s.w.m.toNat s.k.r0.toNat)
        n := s.k.iter.toNat }

/-- `MODINV` (42_gcd_egcd_modinv.md R151, R143). -/
def execModinv (_src : OperandSource) (s : State) : Host.Outcome State Fault Refusal :=
  .next (engineStep (modinvResult s) (euclidMore s.k) euclidBody s)

end Sys2Proof.Machine
end

