-- ==== Sys2Proof/Machine/Nop.lean ====
section
/-! DEFINITION. The meaning of `NOP` (40_command_lifecycle.md R116). -/

namespace Sys2Proof.Machine

/-- `NOP` writes nothing and iterates never (R116). -/
def nopResult : CommandResult := .ok { n := 0 }

/-- The engine's step on a running `NOP`: its commit (R116). -/
def execNop (s : State) : Host.Outcome State Fault Refusal :=
  .next (engineStep nopResult false id s)

end Sys2Proof.Machine
end

