-- ==== Sys2Proof/Machine/Power.lean ====
section
/-! DEFINITION. The meanings of `MODEXP`, `MULMOD` (43_modexp_mulmod.md) and `FERMAT` (41_fermat.md).

A meaning is the engine's step on the running command (40_command_lifecycle.md R113). The operand source of the
instruction has had its effect when accept took the snapshot (R111, 30_encoding.md R92), so a meaning reads `w.a`. -/

namespace Sys2Proof.Machine

/-- What a `MODEXP` commits when its loop is done (43_modexp_mulmod.md R160, R161). -/
def modexpResult (s : State) : CommandResult :=
  if s.w.m = 0 then .error .modZero
  else .ok { res := some s.k.r, n := s.k.iter.toNat }

/-- `MODEXP` (43_modexp_mulmod.md R160, R161). -/
def execModexp (_src : OperandSource) (s : State) : Host.Outcome State Fault Refusal :=
  .next (engineStep (modexpResult s) (powerMore s.k) powerBody s)

/-- What a `MULMOD` commits (43_modexp_mulmod.md R165). -/
def mulmodResult (s : State) : CommandResult :=
  if s.w.m = 0 then .error .modZero
  else .ok { res := some (mulMod s.w.a s.w.b s.w.m), n := 0 }

/-- `MULMOD` (43_modexp_mulmod.md R165): the first engine step is the commit. -/
def execMulmod (_src : OperandSource) (s : State) : Host.Outcome State Fault Refusal :=
  .next (engineStep (mulmodResult s) false id s)

/-- What a `FERMAT` commits when its loop is done (41_fermat.md R130, R131). -/
def fermatResult (s : State) : CommandResult :=
  if s.w.a = 0 then .error .modZero
  else .ok { res := some s.k.r, prime := some (primeVerdict s.k.r.toNat), n := s.k.iter.toNat }

/-- `FERMAT` (41_fermat.md R130, R131). -/
def execFermat (_src : OperandSource) (s : State) : Host.Outcome State Fault Refusal :=
  .next (engineStep (fermatResult s) (powerMore s.k) powerBody s)

end Sys2Proof.Machine
end

