-- ==== Sys2Proof/Machine/Dispatch.lean ====
section
/-! DEFINITION. The dispatch: the engine's step on a running command (40_command_lifecycle.md R113), one arm each. -/

namespace Sys2Proof.Machine

def exec (i : Instr) (s : State) : Host.Outcome State Fault Refusal :=
  match i with
  | .nop => Sys2Proof.Machine.execNop s
  | .modexp src => Sys2Proof.Machine.execModexp src s
  | .mulmod src => Sys2Proof.Machine.execMulmod src s
  | .gcd src => Sys2Proof.Machine.execGcd src s
  | .egcd src => Sys2Proof.Machine.execEgcd src s
  | .modinv src => Sys2Proof.Machine.execModinv src s
  | .fermat src => Sys2Proof.Machine.execFermat src s

end Sys2Proof.Machine
end

