-- ==== Sys2Proof/Machine/Engine.lean ====
section
/-! DEFINITION. The engine's turn and the performance of one scheduled step (00_scope.md R10, 10_state.md R39). -/

namespace Sys2Proof.Machine

/-- The engine's turn. While `phase = RUN` it takes its one enabled step on the word in `w.cmd`, which for an illegal
word is the commit with `ILLCMD` (30_encoding.md R94, 60_exceptions.md R218); while `phase = IDLE` it has no step and
nothing changes (10_state.md R39). -/
def engineTurn (s : State) : Host.Outcome State Fault Refusal :=
  match s.phase with
  | .idle => .next s
  | .run =>
    match decodeWord s.w.cmd with
    | .ok i => exec i s
    | .illegal _ => .next (commit (.error .illCmd) s)

/-- One scheduled step of one agent. -/
def perform (a : Action) (s : State) : Host.Outcome State Fault Refusal :=
  match a with
  | .bus t => .next (busStep t s)
  | .engine => engineTurn s
  | .reset => .next (resetStep s)

/-- The state in which the block has just accepted the word of an opcode-table row and nothing else is scheduled. The
accept replaces the host's write of the word to `CMD` (assumption 3). -/
def placeWord (s : State) (nbits w : Nat) : State :=
  accept (tableWord nbits w) { s with pending := [] }

end Sys2Proof.Machine
end

