-- ==== Sys2Proof/Machine/Step.lean ====
section
/-! DEFINITION. One step of the machine. -/

namespace Sys2Proof.Machine

/-- One step: the next scheduled step, and with none scheduled the engine's turn, so that the engine is never kept
waiting for ever (70_reset_and_hazards.md R261, assumptions 1 and 2). -/
def step (s : State) : Host.Outcome State Fault Refusal :=
  match s.pending with
  | [] => engineTurn s
  | a :: rest => perform a { s with pending := rest }

/-- `s` with the command of an opcode-table row running and no other step scheduled (assumption 3). -/
def State.withFetchWord (s : State) (nbits w : Nat) : State := placeWord s nbits w

end Sys2Proof.Machine
end

