-- ==== Sys2Proof/Machine/Outcome.lean ====
section
/-! DEFINITION. The value-level definitions of the commands: what each commits as a function of the snapshot alone
(00_scope.md R11, 40_command_lifecycle.md R114). The engine does not run these; statements compare it with them
(40_command_lifecycle.md R118). -/

namespace Sys2Proof.Machine

/-- `modexp(a, e, m)` (43_modexp_mulmod.md R160): the remainder of the integer power, with `a^0 = 1` for every `a`. -/
def modexp (a e m : Nat) : Nat := a ^ e % m

/-- `extendedGcd(a, b)` (42_gcd_egcd_modinv.md R144) with a bound on the depth of the recursion. -/
def extendedGcdFuel : Nat → Nat → Nat → Nat × Int × Int
  | 0, a, _ => (a, 1, 0)
  | fuel + 1, a, b =>
    if b = 0 then (a, 1, 0)
    else
      let child := extendedGcdFuel fuel b (a % b)
      (child.1, child.2.2, child.2.1 - (a / b : Nat) * child.2.2)

/-- `extendedGcd(a, b)` (42_gcd_egcd_modinv.md R144). The second operand falls at each call, so a depth of `b + 1` is
never exhausted. -/
def extendedGcd (a b : Nat) : Nat × Int × Int := extendedGcdFuel (b + 1) a b

/-- The number of division steps of `euclid(a, b)` (42_gcd_egcd_modinv.md R143, R147), with a bound on them. -/
def euclidStepsFuel : Nat → Nat → Nat → Nat
  | 0, _, _ => 0
  | fuel + 1, a, b => if b = 0 then 0 else euclidStepsFuel fuel b (a % b) + 1

/-- The number of division steps of `euclid(a, b)` (42_gcd_egcd_modinv.md R143, R147). -/
def euclidSteps (a b : Nat) : Nat := euclidStepsFuel (b + 1) a b

/-- `gcd(a, b)` (42_gcd_egcd_modinv.md R141). -/
def gcdOf (a b : Nat) : Nat := (extendedGcd a b).1

/-- `coprime(a, b)` (42_gcd_egcd_modinv.md R142). -/
def coprime (a b : Nat) : Bool := coprimeVerdict a b (gcdOf a b)

/-- `inv` of `modularInverse(e, m)` (42_gcd_egcd_modinv.md R151). -/
def modularInverse (e m : Nat) : Int := inverseOf (extendedGcd e m).2.1 m

/-- `outcome(w)` for a legal command (40_command_lifecycle.md R114, and the command's own rule). -/
def commandOutcome (i : Instr) (w : Snapshot) : CommandResult :=
  let a := w.a.toNat
  let b := w.b.toNat
  let m := w.m.toNat
  match i with
  | .nop => .ok { n := 0 }
  | .modexp _ =>
    if m = 0 then .error .modZero
    else .ok { res := some (BitVec.ofNat 64 (modexp a b m)), n := bitlen b }
  | .mulmod _ =>
    if m = 0 then .error .modZero
    else .ok { res := some (BitVec.ofNat 64 (a * b % m)), n := 0 }
  | .gcd _ =>
    .ok { gcd := some (BitVec.ofNat 64 (gcdOf a b)), coprime := some (coprime a b), n := euclidSteps a b }
  | .egcd _ =>
    .ok { gcd := some (BitVec.ofNat 64 (gcdOf a b))
          x := some (extendedGcd a b).2.1
          y := some (extendedGcd a b).2.2
          coprime := some (coprime a b)
          n := euclidSteps a b }
  | .modinv _ =>
    .ok { res := some (BitVec.ofInt 64 (modularInverse a m))
          gcd := some (BitVec.ofNat 64 (gcdOf a m))
          x := some (extendedGcd a m).2.1
          y := some (extendedGcd a m).2.2
          coprime := some (coprime a m)
          n := euclidSteps a m }
  | .fermat _ =>
    if a = 0 then .error .modZero
    else .ok { res := some (BitVec.ofNat 64 (modexp 2 (a - 1) a))
               prime := some (primeVerdict (modexp 2 (a - 1) a))
               n := bitlen (a - 1) }

/-- `outcome(w)` (40_command_lifecycle.md R114): an illegal word ends in `ILLCMD` whatever the operands
(60_exceptions.md R218). -/
def outcome (w : Snapshot) : CommandResult :=
  match decodeWord w.cmd with
  | .ok i => commandOutcome i w
  | .illegal _ => .error .illCmd

end Sys2Proof.Machine
end

