-- ==== Sys2Proof/Machine/HostPipeline.lean ====
section
/-! DEFINITION. The contracts of the host's block cipher pipeline (45_host_block_pipeline.md). They are host software
and no state of the block (00_scope.md R4, assumption 14); the machine does not use them. -/

namespace Sys2Proof.Machine

/-- A key: exponent and modulus, each below `2^64` for RAK64 (45_host_block_pipeline.md R207). -/
structure Key where
  exponent : Dword
  modulus : Dword
deriving DecidableEq, Repr

/-- Zero bytes on the right up to the next multiple of `n` (45_host_block_pipeline.md R197, R198). -/
def zeroExtendTo (n : Nat) (bytes : List Byte) : List Byte :=
  bytes ++ List.replicate ((n - bytes.length % n) % n) 0

/-- Four zero bytes before each group of four; a short last group is put after four zero bytes as it is
(45_host_block_pipeline.md R195). -/
def padGroups : List Byte → List Byte
  | [] => []
  | a :: b :: c :: d :: rest => 0 :: 0 :: 0 :: 0 :: a :: b :: c :: d :: padGroups rest
  | short => 0 :: 0 :: 0 :: 0 :: short

/-- `pad` (45_host_block_pipeline.md R195) after the extension to a multiple of 4 that R197 decides. -/
def pad (bytes : List Byte) : List Byte := padGroups (zeroExtendTo 4 bytes)

/-- `unpad` (45_host_block_pipeline.md R196): the last four bytes of every 8-byte block. The contract speaks of whole
blocks, and a tail of fewer than eight bytes is no block. -/
def unpad : List Byte → List Byte
  | _ :: _ :: _ :: _ :: a :: b :: c :: d :: rest => a :: b :: c :: d :: unpad rest
  | _ => []

/-- The big-endian integer of eight bytes (45_host_block_pipeline.md R198). -/
def blockOfBytes (b0 b1 b2 b3 b4 b5 b6 b7 : Byte) : Dword := b0 ++ b1 ++ b2 ++ b3 ++ b4 ++ b5 ++ b6 ++ b7

/-- The whole 8-byte groups of a buffer as blocks, in order (45_host_block_pipeline.md R198). -/
def wholeBlocks : List Byte → List Dword
  | b0 :: b1 :: b2 :: b3 :: b4 :: b5 :: b6 :: b7 :: rest => blockOfBytes b0 b1 b2 b3 b4 b5 b6 b7 :: wholeBlocks rest
  | _ => []

/-- `bytesToBlocks` (45_host_block_pipeline.md R198), forward block order (R200). -/
def bytesToBlocks (bytes : List Byte) : List Dword := wholeBlocks (zeroExtendTo 8 bytes)

/-- The eight bytes of a block, most significant first (45_host_block_pipeline.md R199). -/
def bytesOfBlock (d : Dword) : List Byte := (List.range 8).map (byteOf d 8)

/-- `blocksToBytes` (45_host_block_pipeline.md R199), forward block order (R200). -/
def blocksToBytes (blocks : List Dword) : List Byte := blocks.flatMap bytesOfBlock

/-- One block under a key: the value one `MODEXP` commits, or the error `MODZERO` (45_host_block_pipeline.md R201). -/
def transformBlock (key : Key) (block : Dword) : Option Dword :=
  if key.modulus = 0 then none
  else some (BitVec.ofNat 64 (modexp block.toNat key.exponent.toNat key.modulus.toNat))

/-- `transform(blocks, key)` (45_host_block_pipeline.md R201): each block by itself (43_modexp_mulmod.md R163), none
where the script goes to `FAIL`. -/
def transform (blocks : List Dword) (key : Key) : Option (List Dword) := blocks.mapM (transformBlock key)

/-- Encrypt (45_host_block_pipeline.md R202). -/
def encrypt (key : Key) (bytes : List Byte) : Option (List Byte) :=
  (transform (bytesToBlocks (pad bytes)) key).map blocksToBytes

/-- Decrypt (45_host_block_pipeline.md R203). -/
def decrypt (key : Key) (bytes : List Byte) : Option (List Byte) :=
  (transform (bytesToBlocks bytes) key).map (fun blocks => unpad (blocksToBytes blocks))

end Sys2Proof.Machine
end

