-- ==== Sys2Proof/Machine/HostKeygen.lean ====
section
/-! DEFINITION. The contracts of the host's key generation (44_host_keygen.md). They are host software and no state of
the block (00_scope.md R4, assumption 14); the machine does not use them. The random draws are arguments (R182): a list
of values stands for the generator, a value outside the range of the search is no draw of it and is passed over, and an
exhausted list stands for a search that has not ended (R189). -/

namespace Sys2Proof.Machine

/-- The range a search draws from: `[low, high)`. Within it a draw is free (44_host_keygen.md R182). -/
structure DrawRange where
  low : Nat
  high : Nat
deriving DecidableEq, Repr

/-- Whether a value is in the range of a search. -/
def DrawRange.contains (range : DrawRange) (c : Nat) : Bool := range.low ≤ c && c < range.high

/-- Candidates are drawn from `[2^lowBits, 2^highBits)` (44_host_keygen.md R180). -/
def candidateRange (params : KeyParams) : DrawRange := { low := 2 ^ params.lowBits, high := 2 ^ params.highBits }

/-- Exponents are drawn from `[0, 2^eBits)` (44_host_keygen.md R183, R184). -/
def exponentRange (params : KeyParams) : DrawRange := { low := 0, high := 2 ^ params.eBits }

/-- `draw()` and `drawE()` (44_host_keygen.md R181, R184): the next value of the generator in the range, with what is
left. How a list stands for the generator is the model's choice (assumption 14). -/
def nextDraw (range : DrawRange) : List Nat → Option (Nat × List Nat)
  | [] => none
  | c :: draws => if range.contains c then some (c, draws) else nextDraw range draws

/-- A search that draws until a test passes: the first draw in the range that passes, with what is left. -/
def searchDraws (range : DrawRange) (test : Nat → Bool) : List Nat → Option (Nat × List Nat)
  | [] => none
  | c :: draws => if range.contains c && test c then some (c, draws) else searchDraws range test draws

/-- The acceptance test of a candidate (41_fermat.md R130, R132): passing it does not make the candidate prime. The
candidate 0, on which `FERMAT` errs and the script goes to `FAIL`, is in no range (44_host_keygen.md R181); its value
here is false. -/
def fermatAccepts (c : Nat) : Bool := c != 0 && primeVerdict (modexp 2 (c - 1) c)

/-- `generatePrime(lowBits, highBits)` (44_host_keygen.md R180, R181): the first candidate drawn that passes, with the
draws left. -/
def generatePrime (params : KeyParams) (draws : List Nat) : Option (Nat × List Nat) :=
  searchDraws (candidateRange params) fermatAccepts draws

/-- Step 3 (44_host_keygen.md R184): the first exponent drawn that is coprime to `phi`, with the draws left. -/
def drawExponent (params : KeyParams) (phi : Nat) (draws : List Nat) : Option (Nat × List Nat) :=
  searchDraws (exponentRange params) (fun e => coprime e phi) draws

/-- `KeyPairState` (44_host_keygen.md R183): host memory, never persisted. -/
structure KeyPairState where
  p : Nat
  q : Nat
  n : Nat
  phi : Nat
  e : Nat
  d : Nat
deriving DecidableEq, Repr

/-- Steps 2 and 4 (44_host_keygen.md R184, R185) on drawn `p`, `q`, `e`. -/
def keyPairState (p q e : Nat) : KeyPairState :=
  { p := p, q := q, n := p * q, phi := (p - 1) * (q - 1), e := e
    d := (modularInverse e ((p - 1) * (q - 1))).toNat }

/-- Step 5 (44_host_keygen.md R186): the seven checks in the table's order. Where `phi = 0` the first counts as
failed. -/
def acceptChecks (t : KeyPairState) : Bool :=
  (t.phi != 0 && t.e * t.d % t.phi == 1)
    && t.e != 0
    && t.d != 0
    && t.d != 1
    && t.e != 1
    && t.e != t.d
    && modexp (modexp 2 t.e t.n) t.d t.n == 2

/-- The host's choice on equal primes (44_host_keygen.md R188). -/
def primesAdmitted (params : KeyParams) (p q : Nat) : Bool := !(params.rejectEqualPrimes && p == q)

/-- One attempt of `buildKeyPair` (44_host_keygen.md R184 to R187): the tuple where it is accepted, and the draws left;
none where the draws ran out first. `drawsE` are the exponent draws, `drawsC` the candidate draws.
Where `rejectEqualPrimes` is true the spec does not say at which step an equal pair is rejected (R188, 00_scope.md R6).
The model rejects it beside the seven checks, after the exponent has been drawn, and the attempt has then used up those
draws. DESIGN CHOICE (assumption 20). -/
def attempt (params : KeyParams) (drawsC drawsE : List Nat) :
    Option (Option KeyPairState × List Nat × List Nat) := do
  let (p, drawsC) ← generatePrime params drawsC
  let (q, drawsC) ← generatePrime params drawsC
  let (e, drawsE) ← drawExponent params ((p - 1) * (q - 1)) drawsE
  let t := keyPairState p q e
  some (if primesAdmitted params p q && acceptChecks t then some t else none, drawsC, drawsE)

/-- The retry loop of `buildKeyPair` (44_host_keygen.md R186, R187) within a number of attempts: the whole tuple is
discarded and drawn again at each rejection. -/
def retryAttempts (params : KeyParams) : Nat → List Nat → List Nat → Option KeyPairState
  | 0, _, _ => none
  | tries + 1, drawsC, drawsE =>
    match attempt params drawsC drawsE with
    | none => none
    | some (some t, _, _) => some t
    | some (none, drawsC, drawsE) => retryAttempts params tries drawsC drawsE

/-- What `buildKeyPair` answers (44_host_keygen.md R183). -/
structure KeyPair where
  publicKey : Key
  privateKey : Key
deriving DecidableEq, Repr

/-- A key of RAK64: both integers must be below `2^64` (45_host_block_pipeline.md R207); none where one is not. -/
def keyOf (exponent modulus : Nat) : Option Key :=
  if exponent < 2 ^ 64 ∧ modulus < 2 ^ 64 then
    some { exponent := BitVec.ofNat 64 exponent, modulus := BitVec.ofNat 64 modulus }
  else none

/-- Step 6 (44_host_keygen.md R187): the two keys of an accepted tuple; the tuple itself is discarded (R183). -/
def emitKeys (t : KeyPairState) : Option KeyPair := do
  let publicKey ← keyOf t.e t.n
  let privateKey ← keyOf t.d t.n
  some { publicKey := publicKey, privateKey := privateKey }

/-- `buildKeyPair(config) -> (publicKey, privateKey)` (44_host_keygen.md R183) within a number of attempts. -/
def buildKeyPair (params : KeyParams) (tries : Nat) (drawsC drawsE : List Nat) : Option KeyPair :=
  (retryAttempts params tries drawsC drawsE).bind emitKeys

end Sys2Proof.Machine
end

