-- ==== Sys2Proof/Machine/HostScript.lean ====
section
/-! DEFINITION. Host scripts (30_encoding.md R97, R98): what a program for RAK64 is, and how one runs against the
machine; and the scripts of 44_host_keygen.md and 45_host_block_pipeline.md. A script is host software and no state of
the block (00_scope.md R4, assumption 14); the machine does not use this file. -/

namespace Sys2Proof.Machine

/-! ## Statements -/

/-- A name of a script, of a value or of a label. The index tells apart the names of one form, such as `out[8j+i]`, or
the labels of the `wait` expansions of one script. -/
structure HostName where
  name : String
  index : Nat := 0
deriving DecidableEq, Repr

/-- What a host statement computes from the values the script has read (30_encoding.md R97, R98). -/
inductive HostExpr where
  | lit (n : Int)
  | var (name : HostName)
  /-- `v[hi:lo]` (00_scope.md R7) -/
  | slice (v : HostExpr) (hi lo : Nat)
  | add (a b : HostExpr)
  | mul (a b : HostExpr)
deriving DecidableEq, Repr

/-- The condition of a branch. The spec gives `cond` no grammar (30_encoding.md R97): its scripts compare by `=` and
`!=` and join comparisons by `or` (95_test_vectors.md P4). That a condition is built from these, `<`, `and` and `not` is
the model's choice. DESIGN CHOICE (assumption 19). -/
inductive HostCond where
  | eq (a b : HostExpr)
  | ne (a b : HostExpr)
  | lt (a b : HostExpr)
  | or (a b : HostCond)
  | and (a b : HostCond)
  | not (a : HostCond)
deriving DecidableEq, Repr

/-- The primitive statements (30_encoding.md R97). -/
inductive HostStmt where
  /-- `wr8`, `wr16`, `wr32` -/
  | wr (n : Size) (off : BitVec 7) (v : HostExpr)
  /-- `rd8`, `rd16`, `rd32`, the value named -/
  | rd (n : Size) (off : BitVec 7) (name : HostName)
  /-- host arithmetic on values the script has read -/
  | assign (name : HostName) (v : HostExpr)
  /-- `name = draw()`, a free input in a range (44_host_keygen.md R181, R182) -/
  | draw (name : HostName) (range : DrawRange)
  | label (name : HostName)
  | jump (target : HostName)
  | jumpIf (c : HostCond) (target : HostName)
  /-- `return v` (44_host_keygen.md R181) -/
  | ret (v : HostExpr)
deriving DecidableEq, Repr

/-- A value by its name. -/
def hostVar (name : String) : HostExpr := .var { name := name }

/-- The label of the `wait` with this number in a script. -/
def waitLabel (k : Nat) : HostName := { name := "wait", index := k }

/-- Bits `hi` down to `lo` of the `STATUS` word last read into `s`. -/
def statusField (hi lo : Nat) : HostExpr := .slice (hostVar "s") hi lo

/-! ## Pseudo-statements -/

/-- `set64 REG, v` (30_encoding.md R98). -/
def set64 (reg : BitVec 7) (v : HostExpr) : List HostStmt :=
  [.wr .b4 reg (.slice v 63 32), .wr .b4 (reg + 4) (.slice v 31 0)]

/-- `get64 REG -> name` (30_encoding.md R98). -/
def get64 (reg : BitVec 7) (name : HostName) : List HostStmt :=
  [.rd .b4 reg { name := "hi" }, .rd .b4 (reg + 4) { name := "lo" },
   .assign name (.add (.mul (hostVar "hi") (.lit (2 ^ 32))) (hostVar "lo"))]

/-- `cmd <text>`, given its word (30_encoding.md R98). -/
def cmd (w : Word) : List HostStmt := [.wr .b4 0x00 (.lit w.toNat)]

/-- `rd32 0x04 -> s`. -/
def readStatus : List HostStmt := [.rd .b4 0x04 { name := "s" }]

/-- `wait` (30_encoding.md R98), the one with number `k` of its script. -/
def wait (k : Nat) : List HostStmt :=
  .label (waitLabel k) :: readStatus ++ [.jumpIf (.eq (statusField 0 0) (.lit 1)) (waitLabel k)]

/-- `run <text>`, given its word (30_encoding.md R98), its `wait` the one with number `k`. -/
def runCmd (w : Word) (k : Nat) : List HostStmt := cmd w ++ wait k

/-- `cmd <text>` for a text of 30_encoding.md R96; none where it is no text of that table. -/
def cmdText (text : String) : Option (List HostStmt) := (assemble text).map cmd

/-- `run <text>` for a text of 30_encoding.md R96, each of its fourteen words included; none where it is no text of that
table. -/
def runText (text : String) (k : Nat) : Option (List HostStmt) := (assemble text).map (fun w => runCmd w k)

/-- `ack` (30_encoding.md R98). -/
def ack : List HostStmt := [.wr .b4 0x04 (.lit 2)]

/-- `ackovr` (30_encoding.md R98). -/
def ackovr : List HostStmt := [.wr .b4 0x04 (.lit 4)]

/-- `getx -> name` and `gety -> name` (30_encoding.md R98): the coefficient at `reg` with its sign at `STATUS[bit]`. -/
def getCoeff (reg : BitVec 7) (bit : Nat) (name : HostName) : List HostStmt :=
  get64 reg { name := "lo64" } ++ readStatus ++
    [.assign name (.add (hostVar "lo64") (.mul (.lit (-(2 ^ 64))) (statusField bit bit)))]

/-- `getx -> name` (30_encoding.md R98). -/
def getx (name : HostName) : List HostStmt := getCoeff 0x40 10 name

/-- `gety -> name` (30_encoding.md R98). -/
def gety (name : HostName) : List HostStmt := getCoeff 0x48 11 name

/-- `if s[6:4] != 0 goto target`: the last command ended in an error. -/
def onError (target : String) : List HostStmt := [.jumpIf (.ne (statusField 6 4) (.lit 0)) { name := target }]

/-! ## The scripts of key generation -/

/-- The loop of 44_host_keygen.md R181 up to its `return`; `k` numbers its label `L` and its `wait` in a larger
script. -/
def searchPrime (params : KeyParams) (k : Nat) : List HostStmt :=
  [.label { name := "L", index := k }, .draw { name := "c" } (candidateRange params)]
    ++ set64 0x10 (hostVar "c") ++ runCmd (encode (.fermat .opa)) k ++ readStatus ++ onError "FAIL"
    ++ [.jumpIf (.eq (statusField 8 8) (.lit 0)) { name := "L", index := k }]

/-- The script of `generatePrime` (44_host_keygen.md R181). Its `FAIL` is a place outside the script. -/
def generatePrimeScript (params : KeyParams) : List HostStmt := searchPrime params 0 ++ [.ret (hostVar "c")]

/-- The script of the exponent draw (44_host_keygen.md R184), `phi` a value the script holds. -/
def drawExponentScript (params : KeyParams) (k : Nat) : List HostStmt :=
  [.label { name := "E" }, .draw { name := "e" } (exponentRange params)]
    ++ set64 0x10 (hostVar "e") ++ set64 0x18 (hostVar "phi") ++ runCmd (encode (.gcd .opa)) k ++ readStatus
    ++ [.jumpIf (.eq (statusField 9 9) (.lit 0)) { name := "E" }]

/-- The script of step 4 (44_host_keygen.md R185). -/
def modularInverseScript (k : Nat) : List HostStmt :=
  set64 0x10 (hostVar "e") ++ set64 0x20 (hostVar "phi") ++ runCmd (encode (.modinv .opa)) k ++ get64 0x30 { name := "d" }

/-- `goto RESTART` where a check fails (44_host_keygen.md R186, 95_test_vectors.md P4). -/
def restartIf (c : HostCond) : HostStmt := .jumpIf c { name := "RESTART" }

/-- The script of check 1 (44_host_keygen.md R186): a `MODZERO` error counts as a failed check. -/
def checkOneScript (k : Nat) : List HostStmt :=
  set64 0x10 (hostVar "e") ++ set64 0x18 (hostVar "d") ++ set64 0x20 (hostVar "phi") ++ runCmd (encode (.mulmod .opa)) k
    ++ onError "RESTART" ++ get64 0x30 { name := "t" } ++ [restartIf (.ne (hostVar "t") (.lit 1))]

/-- The host compares of checks 2 to 6 (44_host_keygen.md R186), as 95_test_vectors.md P4 writes them. -/
def compareScript : List HostStmt :=
  [restartIf (.or (.or (.or (.eq (hostVar "e") (.lit 0)) (.eq (hostVar "d") (.lit 0)))
      (.eq (hostVar "d") (.lit 1))) (.eq (hostVar "e") (.lit 1))),
   restartIf (.eq (hostVar "e") (hostVar "d"))]

/-- The script of check 7 (44_host_keygen.md R186): the second exponentiation takes its base from `RES`. -/
def checkSevenScript (k : Nat) : List HostStmt :=
  set64 0x10 (.lit 2) ++ set64 0x18 (hostVar "e") ++ set64 0x20 (hostVar "n") ++ runCmd (encode (.modexp .opa)) k
    ++ set64 0x18 (hostVar "d") ++ runCmd (encode (.modexp .res)) (k + 1) ++ get64 0x30 { name := "t" }
    ++ [restartIf (.ne (hostVar "t") (.lit 2))]

/-- The six steps of `buildKeyPair` as one script (44_host_keygen.md R183 to R187). It ends with the public key in `e`,
`n` and the private key in `d`, `n`. Where equal primes are rejected is the model's choice, as in `attempt`
(assumption 20). -/
def buildKeyPairScript (params : KeyParams) : List HostStmt :=
  [.label { name := "RESTART" }]
    ++ searchPrime params 0 ++ [.assign { name := "p" } (hostVar "c")]
    ++ searchPrime params 1 ++ [.assign { name := "q" } (hostVar "c")]
    ++ [.assign { name := "n" } (.mul (hostVar "p") (hostVar "q")),
        .assign { name := "phi" } (.mul (.add (hostVar "p") (.lit (-1))) (.add (hostVar "q") (.lit (-1))))]
    ++ drawExponentScript params 2 ++ modularInverseScript 3
    ++ (if params.rejectEqualPrimes then [restartIf (.eq (hostVar "p") (hostVar "q"))] else [])
    ++ checkOneScript 4 ++ compareScript ++ checkSevenScript 5

/-! ## The script of the pipeline -/

/-- How a block travels (45_host_block_pipeline.md R201): byte by byte, or as a 64-bit register. -/
inductive BlockForm where
  | bytes
  | words
deriving DecidableEq, Repr

/-- Block to `OPA`: `wr8 0x10+i, byte[8j+i]` for `i = 0..7`, or `set64 OPA, block_j`
(45_host_block_pipeline.md R201). -/
def putBlock (form : BlockForm) (block : Dword) : List HostStmt :=
  match form with
  | .bytes => (List.range 8).map (fun i => .wr .b1 (0x10 + BitVec.ofNat 7 i) (.lit (byteOf block 8 i).toNat))
  | .words => set64 0x10 (.lit block.toNat)

/-- `RES` to the output: `rd8 0x30+i -> out[8j+i]` for `i = 0..7`, or `get64 RES -> block'_j`
(45_host_block_pipeline.md R201). -/
def getBlock (form : BlockForm) (j : Nat) : List HostStmt :=
  match form with
  | .bytes =>
    (List.range 8).map (fun i => .rd .b1 (0x30 + BitVec.ofNat 7 i) { name := "out", index := 8 * j + i })
  | .words => get64 0x30 { name := "block'", index := j }

/-- The body of the loop for block `j` (45_host_block_pipeline.md R201). -/
def transformBlockScript (form : BlockForm) (j : Nat) (block : Dword) : List HostStmt :=
  putBlock form block ++ runCmd (encode (.modexp .opa)) j ++ readStatus ++ onError "FAIL" ++ getBlock form j

/-- The bodies for a list of blocks, the first one block `j`. -/
def transformLoop (form : BlockForm) : Nat → List Dword → List HostStmt
  | _, [] => []
  | j, block :: blocks => transformBlockScript form j block ++ transformLoop form (j + 1) blocks

/-- The script of `transform(blocks, key)` (45_host_block_pipeline.md R201): exponent and modulus are written once,
before the first block. Without blocks it is empty: R205 says that no command is issued, and 95_test_vectors.md S3 that
the block's state is unchanged, while the listing of R201 has the two writes before its loop. DEDUCED (assumption 21). -/
def transformScript (form : BlockForm) (key : Key) (blocks : List Dword) : List HostStmt :=
  match blocks with
  | [] => []
  | _ :: _ =>
    set64 0x18 (.lit key.exponent.toNat) ++ set64 0x20 (.lit key.modulus.toNat) ++ transformLoop form 0 blocks

/-! ## A run of a script -/

/-- The host while it runs a script: the script, the position in it, the values read, and the generator's values to
come. -/
structure HostState where
  script : List HostStmt
  position : Nat := 0
  vars : List (HostName × Int) := []
  draws : List Nat := []
deriving DecidableEq, Repr

/-- How a script ends. -/
inductive HostEnd where
  /-- after its last statement -/
  | finished
  /-- by `return v` -/
  | returned (v : Int)
  /-- by a `goto` to a label outside the script, such as `FAIL` -/
  | leftTo (target : HostName)
  /-- the generator's values have run out: the search has not ended (44_host_keygen.md R189) -/
  | noDraw
  /-- the script uses a value it has not read, which no script does (30_encoding.md R97) -/
  | unread
deriving DecidableEq, Repr

/-- What one statement leads to. -/
inductive HostTurn where
  | next (h : HostState) (s : State)
  | ended (e : HostEnd)
deriving DecidableEq, Repr

/-- The value of a name; none where nothing has been read into it. -/
def HostState.value (h : HostState) (name : HostName) : Option Int :=
  (h.vars.find? (fun entry => entry.1 == name)).map (·.2)

/-- A name with a new value; without one for none. -/
def HostState.bind (h : HostState) (name : HostName) (v : Option Int) : HostState :=
  let others := h.vars.filter (fun entry => entry.1 != name)
  match v with
  | some v => { h with vars := (name, v) :: others }
  | none => { h with vars := others }

/-- The host at the next statement. -/
def HostState.advance (h : HostState) : HostState := { h with position := h.position + 1 }

/-- The value of an expression; none where it uses a value that has not been read. -/
def HostExpr.eval (h : HostState) : HostExpr → Option Int
  | .lit n => some n
  | .var name => h.value name
  | .slice v hi lo => (v.eval h).map (fun v => v / 2 ^ lo % 2 ^ (hi - lo + 1))
  | .add a b => do some ((← a.eval h) + (← b.eval h))
  | .mul a b => do some ((← a.eval h) * (← b.eval h))

/-- The truth of a condition; none where it uses a value that has not been read. -/
def HostCond.holds (h : HostState) : HostCond → Option Bool
  | .eq a b => do some ((← a.eval h) == (← b.eval h))
  | .ne a b => do some ((← a.eval h) != (← b.eval h))
  | .lt a b => do some (decide ((← a.eval h) < (← b.eval h)))
  | .or a b => do some ((← a.holds h) || (← b.holds h))
  | .and a b => do some ((← a.holds h) && (← b.holds h))
  | .not a => (a.holds h).map (!·)

/-- What a read gives its name: the data, and no value where it ended in a bus error, whose data no rule lets the host
use (20_memory.md R68). -/
def Reply.value : Reply → Option Int
  | .data v => some v.toNat
  | .ack => none
  | .busError => none

/-- `goto target`: the place of the label, or out of the script. -/
def HostState.goTo (h : HostState) (target : HostName) (s : State) : HostTurn :=
  match h.script.findIdx? (· == .label target) with
  | some position => .next { h with position := position } s
  | none => .ended (.leftTo target)

/-- The next statement of the script (30_encoding.md R97): at most one transaction on the block, as the machine performs
it. The script goes on after a bus error, which affects no later transaction (20_memory.md R68, 95_test_vectors.md P5). -/
def hostStep (h : HostState) (s : State) : HostTurn :=
  match h.script[h.position]? with
  | none => .ended .finished
  | some (.wr n off v) =>
    match v.eval h with
    | some v => .next h.advance (busStep (.write off n (BitVec.ofInt 32 v)) s)
    | none => .ended .unread
  | some (.rd n off name) =>
    .next (h.advance.bind name (memRead off n s).value) (busStep (.read off n) s)
  | some (.assign name v) =>
    match v.eval h with
    | some v => .next (h.advance.bind name (some v)) s
    | none => .ended .unread
  | some (.draw name range) =>
    match nextDraw range h.draws with
    | some (c, draws) => .next ({ h.advance with draws := draws }.bind name (some c)) s
    | none => .ended .noDraw
  | some (.label _) => .next h.advance s
  | some (.jump target) => h.goTo target s
  | some (.jumpIf c target) =>
    match c.holds h with
    | some true => h.goTo target s
    | some false => .next h.advance s
    | none => .ended .unread
  | some (.ret v) =>
    match v.eval h with
    | some v => .ended (.returned v)
    | none => .ended .unread

/-- A number of engine turns. -/
def engineTurns : Nat → State → State
  | 0, s => s
  | k + 1, s =>
    match engineTurn s with
    | .next s' => engineTurns k s'
    | .fault _ => s
    | .refused _ => s

/-- Where a run of a script stands: the host, the block, and how the script ended; none while it has not. -/
structure HostRun where
  host : HostState
  block : State
  ended : Option HostEnd
deriving DecidableEq, Repr

/-- A run of a script, at most `fuel` statements long, with some engine turns before each statement: as many as
`delays` names, then one each, so that the engine is never kept waiting for ever (70_reset_and_hazards.md R261). -/
def runScript : Nat → List Nat → HostState → State → HostRun
  | 0, _, h, s => { host := h, block := s, ended := none }
  | fuel + 1, delays, h, s =>
    let s := engineTurns (delays.headD 1) s
    match hostStep h s with
    | .ended e => { host := h, block := s, ended := some e }
    | .next h s => runScript fuel delays.tail h s

end Sys2Proof.Machine
end

