-- ==== Sys2Proof/Safety.lean ====
section
/-! DEFINITION. What a good state is, in the terms the statements use: the kernel registers of a running command agree
with its snapshot, and the status flags with the phase. -/

namespace Sys2Proof.Machine

/-- The square-and-multiply registers in the middle of `a^e mod n` (43_modexp_mulmod.md R161, its invariant): the bits
above the bit index have been consumed, one per `iterate`. -/
structure PowerInv (a e n : Nat) (k : Kernel) : Prop where
  modulus : k.n.toNat = n
  exponent : k.e.toNat = e
  base : k.base.toNat = a % n
  count : k.i.toNat + k.iter.toNat = bitlen e
  result : k.r.toNat = modexp a (e / 2 ^ k.i.toNat) n

/-- The Euclid registers in the middle of `euclid(a, b)`: the invariant of 42_gcd_egcd_modinv.md R143, the bounds of
R146, and what is left to do (R147). -/
structure EuclidInv (a b : Nat) (k : Kernel) : Prop where
  /-- `a*k.s0 + b*k.t0 = k.r0` and `a*k.s1 + b*k.t1 = k.r1` (R143) -/
  row0 : (a : Int) * k.s0.toInt + b * k.t0.toInt = k.r0.toNat
  row1 : (a : Int) * k.s1.toInt + b * k.t1.toInt = k.r1.toNat
  /-- the coefficients of one column have opposite signs, so no magnitude cancels -/
  signS : k.s0.toInt * k.s1.toInt ≤ 0
  signT : k.t0.toInt * k.t1.toInt ≤ 0
  /-- the cross sums stay the operands, which bounds the magnitudes (R146) -/
  crossS : k.r0.toNat * k.s1.toInt.natAbs + k.r1.toNat * k.s0.toInt.natAbs = b
  crossT : k.r0.toNat * k.t1.toInt.natAbs + k.r1.toNat * k.t0.toInt.natAbs = a
  /-- the bounds R146 states -/
  boundS0 : k.s0.toInt.natAbs ≤ max b 1
  boundS1 : k.s1.toInt.natAbs ≤ max b 1
  boundT0 : k.t0.toInt.natAbs ≤ max a 1
  boundT1 : k.t1.toInt.natAbs ≤ max a 1
  /-- finishing the recursion on the remainders gives the recursion's result on the operands (R147) -/
  rest :
    extendedGcd a b =
      ((extendedGcd k.r0.toNat k.r1.toNat).1,
       (extendedGcd k.r0.toNat k.r1.toNat).2.1 * k.s0.toInt + (extendedGcd k.r0.toNat k.r1.toNat).2.2 * k.s1.toInt,
       (extendedGcd k.r0.toNat k.r1.toNat).2.1 * k.t0.toInt + (extendedGcd k.r0.toNat k.r1.toNat).2.2 * k.t1.toInt)
  /-- the steps taken and the steps to come (R147) -/
  steps : k.iter.toNat + euclidSteps k.r0.toNat k.r1.toNat = euclidSteps a b

/-- The kernel registers agree with the snapshot of the running command (10_state.md R42). Nothing is asked for a
command without a datapath or with an error condition, whose registers no rule reads. -/
def KernelAgrees (s : State) : Prop :=
  match decodeWord s.w.cmd with
  | .ok .nop => True
  | .ok (.modexp _) => s.w.m ≠ 0 → PowerInv s.w.a.toNat s.w.b.toNat s.w.m.toNat s.k
  | .ok (.mulmod _) => True
  | .ok (.gcd _) => EuclidInv s.w.a.toNat s.w.b.toNat s.k
  | .ok (.egcd _) => EuclidInv s.w.a.toNat s.w.b.toNat s.k
  | .ok (.modinv _) => EuclidInv s.w.a.toNat s.w.m.toNat s.k
  | .ok (.fermat _) => s.w.a ≠ 0 → PowerInv 2 (s.w.a.toNat - 1) s.w.a.toNat s.k
  | .illegal _ => True

/-- What holds while a command runs: `DONE` and `ERR` are clear since its accept (10_state.md R31, R33), `CMD` still
holds its word (R28), and the kernel registers agree with the snapshot. -/
structure RunInv (s : State) : Prop where
  notDone : s.done = false
  noError : s.err = none
  word : s.cmd = s.w.cmd
  kernel : KernelAgrees s

/-- The invariant of the machine. -/
structure Inv (s : State) : Prop where
  run : s.phase = .run → RunInv s
  /-- `ITER` is at most 92 (70_reset_and_hazards.md R262) -/
  iterBound : s.iter.toNat ≤ Config.maxEuclidSteps

/-- The word of the running command is that of `i`. -/
def Running (i : Instr) (s : State) : Prop := s.phase = .run ∧ decodeWord s.w.cmd = .ok i

end Sys2Proof.Machine
end

