-- ==== Sys2Proof/Certificates/Slice0/Obligations.lean ====
section
/-! DEFINITION. The statements for the provers. -/

open Sys2Proof Sys2Proof.Machine

/-! ## Encoding -/

/-- 30_encoding.md R96: the table's fourteen words, and words of R94, read by the decoder. A sanity statement. -/
def Obligations.TableWordsDecode : Prop :=
  decodeWord 0x00000000#32 = .ok .nop ∧ decodeWord 0x00000010#32 = .ok .nop ∧
  decodeWord 0x00000001#32 = .ok (.modexp .opa) ∧ decodeWord 0x00000011#32 = .ok (.modexp .res) ∧
  decodeWord 0x00000002#32 = .ok (.mulmod .opa) ∧ decodeWord 0x00000012#32 = .ok (.mulmod .res) ∧
  decodeWord 0x00000003#32 = .ok (.gcd .opa) ∧ decodeWord 0x00000013#32 = .ok (.gcd .res) ∧
  decodeWord 0x00000004#32 = .ok (.egcd .opa) ∧ decodeWord 0x00000014#32 = .ok (.egcd .res) ∧
  decodeWord 0x00000005#32 = .ok (.modinv .opa) ∧ decodeWord 0x00000015#32 = .ok (.modinv .res) ∧
  decodeWord 0x00000006#32 = .ok (.fermat .opa) ∧ decodeWord 0x00000016#32 = .ok (.fermat .res) ∧
  decodeWord 0x00000007#32 = .illegal .reservedOpcode ∧ decodeWord 0x00000021#32 = .illegal .reservedBits

/-- 30_encoding.md R95: `encode` then `decode` is the identity, and `decode` then `encode` is the identity on every
legal word but `0x00000010`, among all `2^32` words. -/
def Obligations.DecodeAndEncodeAreInverse : Prop :=
  (∀ i : Instr, decodeWord (encode i) = .ok i) ∧
  (∀ (w : Word) (i : Instr), decodeWord w = .ok i → encode i = w ∨ (w = 0x00000010#32 ∧ i = .nop)) ∧
  (∀ (i : Instr) (rest : List Byte), decode (bytesOfWord (encode i) ++ rest) = .ok (i, rest))

/-- 30_encoding.md R94, its first sentence: a word is refused iff a bit of 31:5 is set or the opcode is 7 or more, among
all `2^32` words, and so the decoder is total. -/
def Obligations.DecoderRefusesExactlyTheIllegalWords : Prop :=
  ∀ w : Word, (∃ e, decodeWord w = .illegal e) ↔ (w.toNat / 2 ^ 5 ≠ 0 ∨ 7 ≤ w.toNat % 2 ^ 4)

/-! ## Fetching a command: accept, overrun, the engine's turn -/

/-- 40_command_lifecycle.md R111, 10_state.md R40: a 4-byte write to `CMD` while idle accepts the word, legal or not.
The kernel registers of each command are stated whole, and those no rule initialises are left free. The field that
holds the bus's answer is the model's (assumption 6). -/
def Obligations.CmdWriteWhileIdleAccepts : Prop :=
  ∀ (s : State) (v : Word), s.phase = .idle →
    ∃ k : Kernel,
      busStep (.write 0x00 .b4 v) s =
        { s with
          cmd := v
          w := { cmd := v, a := if v.getLsbD 4 then s.res else s.opa, b := s.opb, m := s.opm }
          k := k
          done := false
          err := none
          phase := .run
          reply := some .ack } ∧
      k.iter = 0 ∧
      (∀ src, decodeWord v = .ok (.modexp src) → s.opm ≠ 0 →
        k.n = s.opm ∧ k.e = s.opb ∧ k.base.toNat = (firstOperand src s).toNat % s.opm.toNat ∧
        k.r.toNat = 1 % s.opm.toNat ∧ k.i.toNat = bitlen s.opb.toNat) ∧
      (∀ src, decodeWord v = .ok (.fermat src) → firstOperand src s ≠ 0 →
        k.n = firstOperand src s ∧ k.e.toNat = (firstOperand src s).toNat - 1 ∧
        k.base.toNat = 2 % (firstOperand src s).toNat ∧ k.r.toNat = 1 % (firstOperand src s).toNat ∧
        k.i.toNat = bitlen ((firstOperand src s).toNat - 1)) ∧
      (∀ src, decodeWord v = .ok (.gcd src) ∨ decodeWord v = .ok (.egcd src) →
        k.r0 = firstOperand src s ∧ k.r1 = s.opb ∧
        k.s0.toInt = 1 ∧ k.s1.toInt = 0 ∧ k.t0.toInt = 0 ∧ k.t1.toInt = 1) ∧
      (∀ src, decodeWord v = .ok (.modinv src) →
        k.r0 = firstOperand src s ∧ k.r1 = s.opm ∧
        k.s0.toInt = 1 ∧ k.s1.toInt = 0 ∧ k.t0.toInt = 0 ∧ k.t1.toInt = 1)

/-- 40_command_lifecycle.md R112: a 4-byte write to `CMD` while a command runs sets `OVR` and nothing else of the
block; the bus acknowledges it (the field that holds the answer is the model's, assumption 6). -/
def Obligations.CmdWriteWhileRunningOverruns : Prop :=
  ∀ (s : State) (v : Word), s.phase = .run →
    busStep (.write 0x00 .b4 v) s = { s with ovr := true, reply := some .ack }

/-- A step runs the decoded command: with no other step scheduled, or with the engine's turn first in the schedule,
`step` is `exec` of the command in `w.cmd`; and the word placed by `withFetchWord` is that command. The schedule and the
placing are the model's choice (assumptions 1, 2 and 3). -/
def Obligations.StepRunsTheRunningCommand : Prop :=
  (∀ (i : Instr) (s : State), Running i s → s.pending = [] → step s = exec i s) ∧
  (∀ (i : Instr) (s : State) (rest : List Action), Running i s → s.pending = .engine :: rest →
    step s = exec i { s with pending := rest }) ∧
  (∀ (i : Instr) (s : State),
    step (s.withFetchWord 32 (encode i).toNat) = exec i (s.withFetchWord 32 (encode i).toNat))

/-- 10_state.md R39, 70_reset_and_hazards.md R247: while `phase = IDLE` the engine has no step, so with nothing
scheduled nothing changes; after reset, with nothing scheduled, nothing runs. That a step is then taken at all, and
changes nothing, is the model's choice (assumption 2), and so is the field that holds the schedule (assumption 1). -/
def Obligations.IdleEngineHasNoStep : Prop :=
  (∀ s : State, s.phase = .idle → engineTurn s = .next s) ∧
  step { State.reset with pending := [] } = .next { State.reset with pending := [] }

/-! ## The commands: completion, results, frames -/

/-- 40_command_lifecycle.md R116: `NOP` commits at its first engine step, and changes only `DONE`, `ERR`, `ITER` and
`phase`; both of its words run it. -/
def Obligations.NopOnlyCompletes : Prop :=
  (∀ s : State, exec .nop s = .next { s with done := true, err := none, iter := 0, phase := .idle }) ∧
  (∀ (s : State) (v : Word), v = 0x00000000#32 ∨ v = 0x00000010#32 →
    engineTurn (accept v s) =
      .next { accept v s with done := true, err := none, iter := 0, phase := .idle })

/-- 43_modexp_mulmod.md R165: `MULMOD` with a modulus other than 0 commits the exact remainder of the exact product at
its first engine step. -/
def Obligations.MulmodCommitsTheExactRemainder : Prop :=
  ∀ (src : OperandSource) (s : State), s.w.m ≠ 0 →
    ∃ r : Dword, r.toNat = s.w.a.toNat * s.w.b.toNat % s.w.m.toNat ∧
      exec (.mulmod src) s = .next { s with res := r, done := true, err := none, iter := 0, phase := .idle }

/-- 43_modexp_mulmod.md R160, R161: `MODEXP` with a modulus other than 0, its loop done, commits the power modulo the
modulus and the length of the exponent. -/
def Obligations.ModexpCommitsThePower : Prop :=
  ∀ (src : OperandSource) (s : State), s.w.m ≠ 0 → s.k.i = 0 →
    PowerInv s.w.a.toNat s.w.b.toNat s.w.m.toNat s.k →
    ∃ (r : Dword) (n : Word),
      r.toNat = s.w.a.toNat ^ s.w.b.toNat % s.w.m.toNat ∧ n.toNat = bitlen s.w.b.toNat ∧
      exec (.modexp src) s = .next { s with res := r, done := true, err := none, iter := n, phase := .idle }

/-- 41_fermat.md R130: `FERMAT` on a candidate other than 0, its loop done, commits the residue `2^(c-1) mod c`, the
verdict, and the length of `c - 1`. -/
def Obligations.FermatCommitsResidueAndVerdict : Prop :=
  ∀ (src : OperandSource) (s : State), s.w.a ≠ 0 → s.k.i = 0 →
    PowerInv 2 (s.w.a.toNat - 1) s.w.a.toNat s.k →
    ∃ (r : Dword) (n : Word),
      r.toNat = 2 ^ (s.w.a.toNat - 1) % s.w.a.toNat ∧ n.toNat = bitlen (s.w.a.toNat - 1) ∧
      exec (.fermat src) s =
        .next { s with
          res := r
          prime := decide (2 ^ (s.w.a.toNat - 1) % s.w.a.toNat = 1)
          done := true
          err := none
          iter := n
          phase := .idle }

/-- 42_gcd_egcd_modinv.md R140, R141, R142: `GCD`, its loop done, commits the greatest common divisor and the verdict,
in which a zero operand is never coprime. -/
def Obligations.GcdCommitsDivisorAndVerdict : Prop :=
  ∀ (src : OperandSource) (s : State), s.k.r1 = 0 → EuclidInv s.w.a.toNat s.w.b.toNat s.k →
    ∃ (g : Dword) (n : Word),
      g.toNat = Nat.gcd s.w.a.toNat s.w.b.toNat ∧ n.toNat = euclidSteps s.w.a.toNat s.w.b.toNat ∧
      exec (.gcd src) s =
        .next { s with
          gcd := g
          coprime := decide (s.w.a ≠ 0 ∧ s.w.b ≠ 0 ∧ Nat.gcd s.w.a.toNat s.w.b.toNat = 1)
          done := true
          err := none
          iter := n
          phase := .idle }

/-- 42_gcd_egcd_modinv.md R145: `EGCD`, its loop done, commits the triple of the recursion of R144 as `tc65` lays it
out, with `w.a * x + w.b * y = g` over the integers, and the verdict. -/
def Obligations.EgcdCommitsTheBezoutTriple : Prop :=
  ∀ (src : OperandSource) (s : State), s.k.r1 = 0 → EuclidInv s.w.a.toNat s.w.b.toNat s.k →
    ∃ (g ex ey : Dword) (xs ys : Bool) (n : Word),
      ((g.toNat : Nat), tc65Value ex xs, tc65Value ey ys) = extendedGcd s.w.a.toNat s.w.b.toNat ∧
      (s.w.a.toNat : Int) * tc65Value ex xs + s.w.b.toNat * tc65Value ey ys = g.toNat ∧
      n.toNat = euclidSteps s.w.a.toNat s.w.b.toNat ∧
      exec (.egcd src) s =
        .next { s with
          gcd := g
          ex := ex
          xs := xs
          ey := ey
          ys := ys
          coprime := decide (s.w.a ≠ 0 ∧ s.w.b ≠ 0 ∧ Nat.gcd s.w.a.toNat s.w.b.toNat = 1)
          done := true
          err := none
          iter := n
          phase := .idle }

/-- 42_gcd_egcd_modinv.md R151: `MODINV`, its loop done, commits the normalised coefficient (0 where the modulus is 0),
the triple and the verdict of `w.a` and `w.m`. -/
def Obligations.ModinvCommitsTheNormalisedCoefficient : Prop :=
  ∀ (src : OperandSource) (s : State), s.k.r1 = 0 → EuclidInv s.w.a.toNat s.w.m.toNat s.k →
    ∃ (r g ex ey : Dword) (xs ys : Bool) (n : Word),
      (r.toNat : Int) =
        (if s.w.m = 0 then 0 else (extendedGcd s.w.a.toNat s.w.m.toNat).2.1 % (s.w.m.toNat : Int)) ∧
      ((g.toNat : Nat), tc65Value ex xs, tc65Value ey ys) = extendedGcd s.w.a.toNat s.w.m.toNat ∧
      n.toNat = euclidSteps s.w.a.toNat s.w.m.toNat ∧
      exec (.modinv src) s =
        .next { s with
          res := r
          gcd := g
          ex := ex
          xs := xs
          ey := ey
          ys := ys
          coprime := decide (s.w.a ≠ 0 ∧ s.w.m ≠ 0 ∧ Nat.gcd s.w.a.toNat s.w.m.toNat = 1)
          done := true
          err := none
          iter := n
          phase := .idle }

/-- 43_modexp_mulmod.md R161, 41_fermat.md R131: one `iterate` of `MODEXP` and of `FERMAT` squares, multiplies where the
exponent's bit is 1, and counts; it changes the kernel registers only. -/
def Obligations.PowerIterateConsumesOneBit : Prop :=
  ∀ (src : OperandSource) (s : State), s.k.i ≠ 0 → s.k.n ≠ 0 →
    ∃ r : Dword,
      r.toNat =
        (if s.k.e.toNat / 2 ^ (s.k.i.toNat - 1) % 2 = 1 then
          s.k.r.toNat * s.k.r.toNat % s.k.n.toNat * s.k.base.toNat % s.k.n.toNat
        else s.k.r.toNat * s.k.r.toNat % s.k.n.toNat) ∧
      (s.w.m ≠ 0 → exec (.modexp src) s =
        .next { s with k := { s.k with r := r, i := s.k.i - 1, iter := s.k.iter + 1 } }) ∧
      (s.w.a ≠ 0 → exec (.fermat src) s =
        .next { s with k := { s.k with r := r, i := s.k.i - 1, iter := s.k.iter + 1 } })

/-- 42_gcd_egcd_modinv.md R143: one `iterate` of `GCD`, `EGCD` and `MODINV` makes one division step on the remainders
and the same step on the coefficients, where the new coefficients fit 65 bits; it changes the kernel registers only. -/
def Obligations.EuclidIterateDividesOnce : Prop :=
  ∀ (src : OperandSource) (s : State) (q : Int), s.k.r1 ≠ 0 → q = (s.k.r0.toNat / s.k.r1.toNat : Nat) →
    -(2 ^ 64) ≤ s.k.s0.toInt - q * s.k.s1.toInt → s.k.s0.toInt - q * s.k.s1.toInt < 2 ^ 64 →
    -(2 ^ 64) ≤ s.k.t0.toInt - q * s.k.t1.toInt → s.k.t0.toInt - q * s.k.t1.toInt < 2 ^ 64 →
    ∃ (r1 : Dword) (s1 t1 : Coeff),
      r1.toNat = s.k.r0.toNat % s.k.r1.toNat ∧
      s1.toInt = s.k.s0.toInt - q * s.k.s1.toInt ∧ t1.toInt = s.k.t0.toInt - q * s.k.t1.toInt ∧
      ∀ t : State,
        t = { s with
          k := { s.k with
            r0 := s.k.r1, r1 := r1, s0 := s.k.s1, s1 := s1, t0 := s.k.t1, t1 := t1, iter := s.k.iter + 1 } } →
        exec (.gcd src) s = .next t ∧ exec (.egcd src) s = .next t ∧ exec (.modinv src) s = .next t

/-- 60_exceptions.md R217, R220: with the condition of `MODZERO`, `MODEXP`, `MULMOD` and `FERMAT` take the error entry
at the engine step, and an illegal word takes it with `ILLCMD` (R218). The effect is `ERR`, `ITER`, `DONE`, `phase` and
nothing else: this is where the forms trap. -/
def Obligations.ErrorEntryWritesOnlyErrIterDonePhase : Prop :=
  (∀ (src : OperandSource) (s : State), s.w.m = 0 →
    exec (.modexp src) s = .next { s with err := some .modZero, iter := 0, done := true, phase := .idle } ∧
    exec (.mulmod src) s = .next { s with err := some .modZero, iter := 0, done := true, phase := .idle }) ∧
  (∀ (src : OperandSource) (s : State), s.w.a = 0 →
    exec (.fermat src) s = .next { s with err := some .modZero, iter := 0, done := true, phase := .idle }) ∧
  (∀ s : State, s.phase = .run → legalWord s.w.cmd = false →
    engineTurn s = .next { s with err := some .illCmd, iter := 0, done := true, phase := .idle })

/-- 60_exceptions.md R216: the error code a commit leaves, for every word and every snapshot: `ILLCMD` exactly for an
illegal word, `MODZERO` exactly for a zero modulus of `MODEXP` or `MULMOD` or a zero candidate of `FERMAT`, and none
otherwise. -/
def Obligations.CommitErrorCodesAreExact : Prop :=
  ∀ s t : State, s.phase = .run → engineTurn s = .next t → t.phase = .idle →
    errCode t.err =
      (if s.w.cmd.toNat / 2 ^ 5 ≠ 0 ∨ 7 ≤ s.w.cmd.toNat % 2 ^ 4 then 1#3
       else if (s.w.cmd.toNat % 2 ^ 4 = 1 ∨ s.w.cmd.toNat % 2 ^ 4 = 2) ∧ s.w.m = 0 then 2#3
       else if s.w.cmd.toNat % 2 ^ 4 = 6 ∧ s.w.a = 0 then 2#3
       else 0#3)

/-- 40_command_lifecycle.md R117 and the "Writes" column of 30_encoding.md R93: the frame of every command, for every
state in which it answers a next state. The window's bytes are those of the registers (20_memory.md R61): every byte is
unchanged outside `STATUS`, `ITER` and the destinations of the command. -/
def Obligations.CommandsWriteOnlyTheirDestinations : Prop :=
  ∀ (i : Instr) (s t : State), exec i s = .next t →
    (t.opa = s.opa ∧ t.opb = s.opb ∧ t.opm = s.opm ∧ t.cmd = s.cmd ∧ t.ovr = s.ovr ∧ t.ie = s.ie ∧ t.w = s.w ∧
      t.pending = s.pending ∧ t.reply = s.reply) ∧
    ((i = .nop ∨ (∃ src, i = .gcd src) ∨ (∃ src, i = .egcd src)) → t.res = s.res) ∧
    ((i = .nop ∨ (∃ src, i = .modexp src) ∨ (∃ src, i = .mulmod src) ∨ (∃ src, i = .fermat src)) →
      t.gcd = s.gcd ∧ t.coprime = s.coprime) ∧
    ((∀ src, i ≠ .egcd src) → (∀ src, i ≠ .modinv src) →
      t.ex = s.ex ∧ t.ey = s.ey ∧ t.xs = s.xs ∧ t.ys = s.ys) ∧
    ((∀ src, i ≠ .fermat src) → t.prime = s.prime) ∧
    (∀ off : Nat, (off < 0x04 ∨ (0x08 ≤ off ∧ off < 0x0C) ∨ (0x10 ≤ off ∧ off < 0x30) ∨ 0x50 ≤ off) →
      readByte off t = readByte off s) ∧
    ((i = .nop ∨ (∃ src, i = .gcd src) ∨ (∃ src, i = .egcd src)) →
      ∀ off : Nat, 0x30 ≤ off → off < 0x38 → readByte off t = readByte off s) ∧
    ((i = .nop ∨ (∃ src, i = .modexp src) ∨ (∃ src, i = .mulmod src) ∨ (∃ src, i = .fermat src)) →
      ∀ off : Nat, 0x38 ≤ off → off < 0x40 → readByte off t = readByte off s) ∧
    ((∀ src, i ≠ .egcd src) → (∀ src, i ≠ .modinv src) →
      ∀ off : Nat, 0x40 ≤ off → off < 0x50 → readByte off t = readByte off s)

/-- 40_command_lifecycle.md R113, R115: a command's step that does not end it changes the kernel registers only, so
every register and flag the host can read keeps its value until the commit. -/
def Obligations.IterateChangesHiddenStateOnly : Prop :=
  ∀ (i : Instr) (s t : State), s.phase = .run → exec i s = .next t → t.phase = .run → t = { s with k := t.k }

/-! ## The engine against the value-level definitions -/

/-- 40_command_lifecycle.md R114, R118, 00_scope.md R11: in every state that meets the invariant, the step that ends a
command writes exactly `outcome(w)`, a function of the snapshot alone, whatever the host did meanwhile. -/
def Obligations.CommitWritesTheOutcomeOfTheSnapshot : Prop :=
  ∀ s t : State, Inv s → s.phase = .run → engineTurn s = .next t → t.phase = .idle →
    t = commit (outcome s.w) s

/-- 40_command_lifecycle.md R118: from an idle block with nothing else scheduled, for EVERY word, legal or not, and every
operand, accept followed by the engine's steps ends in the state that one commit of `outcome` would give, after as many
`iterate` steps as the committed `ITER` says, and not before. The schedule, and the engine's turn when
nothing is scheduled, are the model's (assumptions 1 and 2), and the spec marks the agreement as its own inference. -/
def Obligations.MicroStepsEndInTheBigStep : Prop :=
  ∀ (v : Word) (s : State), s.phase = .idle → s.pending = [] →
    ∃ t : State,
      core.run (t.iter.toNat + 1) (accept v s) = .next t ∧
      t = { commit (outcome (snapshot v s)) s with cmd := v, w := snapshot v s, k := t.k } ∧
      ∀ j : Nat, j ≤ t.iter.toNat → ∃ u : State, core.run j (accept v s) = .next u ∧ u.phase = .run

/-- 70_reset_and_hazards.md R262, R261: in every state that meets the invariant, a running command left to the engine
commits within 93 steps, and within 65 where it is not one of the gcd family. That the engine steps when nothing is
scheduled is the model's choice (assumptions 1 and 2), and the spec marks the bound 92 of R262 as general knowledge. -/
def Obligations.EveryRunningCommandCommits : Prop :=
  ∀ s : State, Inv s → s.phase = .run → s.pending = [] →
    ∃ (n : Nat) (t : State), n ≤ 93 ∧ core.run n s = .next t ∧ t.phase = .idle ∧ t.done = true ∧
      ((∀ src, decodeWord s.w.cmd ≠ .ok (.gcd src) ∧ decodeWord s.w.cmd ≠ .ok (.egcd src) ∧
        decodeWord s.w.cmd ≠ .ok (.modinv src)) → n ≤ 65)

/-- 42_gcd_egcd_modinv.md R147 on 64-bit operands: the iteration of R143, run for as many steps as the recursion of R144
is deep, ends with the recursion's triple. -/
def Obligations.EuclidIterationEqualsTheRecursion : Prop :=
  ∀ (a b : Dword) (k0 : Kernel), k0.iter = 0 →
    let k := euclidBody^[euclidSteps a.toNat b.toNat] (euclidInit a b k0)
    k.r1 = 0 ∧ (k.r0.toNat, k.s0.toInt, k.t0.toInt) = extendedGcd a.toNat b.toNat ∧
      k.iter.toNat = euclidSteps a.toNat b.toNat ∧
      ∀ j : Nat, j < euclidSteps a.toNat b.toNat → (euclidBody^[j] (euclidInit a b k0)).r1 ≠ 0

/-- 42_gcd_egcd_modinv.md R144, R141: the recursion meets JRSA's contract `a*x + b*y == gcd`, and its first component is
the greatest common divisor, for all naturals. The spec marks the recursive line as general knowledge, not JRSA's. -/
def Obligations.ExtendedGcdMeetsItsContract : Prop :=
  ∀ a b : Nat,
    (a : Int) * (extendedGcd a b).2.1 + b * (extendedGcd a b).2.2 = (extendedGcd a b).1 ∧
    (extendedGcd a b).1 = Nat.gcd a b ∧
    (b = 0 → extendedGcd a b = (a, 1, 0)) ∧
    (b ≠ 0 → extendedGcd a b =
      ((extendedGcd b (a % b)).1, (extendedGcd b (a % b)).2.2,
        (extendedGcd b (a % b)).2.1 - (a / b : Nat) * (extendedGcd b (a % b)).2.2))

/-- 42_gcd_egcd_modinv.md R146, two of its bounds: the coefficients of 64-bit operands, and the number of division
steps, with the pair that reaches it. The spec marks them as general knowledge; the statement makes them facts of the
definitions. -/
def Obligations.BezoutCoefficientsAndStepsAreBounded : Prop :=
  (∀ a b : Nat, (extendedGcd a b).2.1.natAbs ≤ max b 1 ∧ (extendedGcd a b).2.2.natAbs ≤ max a 1) ∧
  (∀ a b : Nat, a < 2 ^ 64 → b < 2 ^ 64 → euclidSteps a b ≤ 92) ∧
  euclidSteps 7540113804746346429 12200160415121876738 = 92 ∧
  euclidSteps 12200160415121876738 7540113804746346429 = 91

/-- 42_gcd_egcd_modinv.md R152: after a `MODINV` with `COPRIME = 1` and a modulus of at least 2, `RES` is the inverse.
The spec marks its form in the block's terms as its own inference from JRSA §8. -/
def Obligations.ModinvResultIsTheInverse : Prop :=
  ∀ (src : OperandSource) (s t : State), Inv s → Running (.modinv src) s → exec (.modinv src) s = .next t →
    t.phase = .idle → t.coprime = true → 2 ≤ s.w.m.toNat →
    s.w.a.toNat * t.res.toNat % s.w.m.toNat = 1

/-- 40_command_lifecycle.md R120, its bounds on the committed results: a remainder is below its modulus, a gcd at most
the larger operand, a coefficient's magnitude below `2^64`. -/
def Obligations.CommittedResultsFitTheirBounds : Prop :=
  ∀ (i : Instr) (s t : State), Inv s → Running i s → exec i s = .next t → t.phase = .idle → t.err = none →
    (((∃ src, i = .modexp src) ∨ (∃ src, i = .mulmod src) ∨ (∃ src, i = .modinv src)) →
      t.res.toNat < max s.w.m.toNat 1) ∧
    ((∃ src, i = .fermat src) → t.res.toNat < s.w.a.toNat) ∧
    (((∃ src, i = .gcd src) ∨ (∃ src, i = .egcd src)) → t.gcd.toNat ≤ max s.w.a.toNat s.w.b.toNat) ∧
    ((∃ src, i = .modinv src) → t.gcd.toNat ≤ max s.w.a.toNat s.w.m.toNat) ∧
    (((∃ src, i = .egcd src) ∨ (∃ src, i = .modinv src)) →
      (tc65Value t.ex t.xs).natAbs < 2 ^ 64 ∧ (tc65Value t.ey t.ys).natAbs < 2 ^ 64)

/-- 40_command_lifecycle.md R122: the zero cases, row by row, of the value-level definitions the engine commits. -/
def Obligations.ZeroOperandsGiveTheTabledResults : Prop :=
  ∀ (w : Snapshot) (src : OperandSource),
    (w.m = 0 → commandOutcome (.modexp src) w = .error .modZero) ∧
    (w.m = 0 → commandOutcome (.mulmod src) w = .error .modZero) ∧
    (w.m ≠ 0 → w.b = 0 →
      commandOutcome (.modexp src) w = .ok { res := some (BitVec.ofNat 64 (1 % w.m.toNat)), n := 0 }) ∧
    (w.m ≠ 0 → w.a = 0 → w.b ≠ 0 →
      commandOutcome (.modexp src) w = .ok { res := some 0, n := bitlen w.b.toNat }) ∧
    (w.m ≠ 0 → w.a = 0 ∨ w.b = 0 → commandOutcome (.mulmod src) w = .ok { res := some 0, n := 0 }) ∧
    (w.a = 0 → commandOutcome (.fermat src) w = .error .modZero) ∧
    (w.a = 1 → commandOutcome (.fermat src) w = .ok { res := some 0, prime := some false, n := 0 }) ∧
    (w.b = 0 →
      commandOutcome (.gcd src) w = .ok { gcd := some w.a, coprime := some false, n := 0 } ∧
      commandOutcome (.egcd src) w =
        .ok { gcd := some w.a, x := some 1, y := some 0, coprime := some false, n := 0 }) ∧
    (w.a = 0 → w.b ≠ 0 →
      commandOutcome (.gcd src) w = .ok { gcd := some w.b, coprime := some false, n := 1 } ∧
      commandOutcome (.egcd src) w =
        .ok { gcd := some w.b, x := some 0, y := some 1, coprime := some false, n := 1 }) ∧
    (w.m = 0 →
      commandOutcome (.modinv src) w =
        .ok { res := some 0, gcd := some w.a, x := some 1, y := some 0, coprime := some false, n := 0 }) ∧
    (w.a = 0 → w.m ≠ 0 →
      commandOutcome (.modinv src) w =
        .ok { res := some 0, gcd := some w.m, x := some 0, y := some 1, coprime := some false, n := 1 })

/-- 41_fermat.md R130, R132: what the verdict does and does not mean. Every even candidate is rejected (2 among them),
every odd prime is accepted, and so is the composite 341. -/
def Obligations.FermatVerdictIsNotPrimality : Prop :=
  (∀ c : Nat, 2 ≤ c → c % 2 = 0 → fermatAccepts c = false) ∧
  (∀ p : Nat, Nat.Prime p → p ≠ 2 → fermatAccepts p = true) ∧
  (fermatAccepts 341 = true ∧ ¬ Nat.Prime 341)

/-! ## Invariants -/

/-- Every step keeps the invariant, in every state that meets it and for every schedule: the kernel registers of a
running command agree with its snapshot, `DONE` and `ERR` are clear while it runs, `CMD` holds its word, and `ITER` is at
most 92 (10_state.md R31, 43_modexp_mulmod.md R161, 42_gcd_egcd_modinv.md R143, R146, R147, 70_reset_and_hazards.md R262). -/
def Obligations.EveryStepKeepsTheKernelInvariant : Prop :=
  ∀ s t : State, Inv s → step s = .next t → Inv t

/-- The state after reset meets the invariant. -/
def Obligations.ResetMeetsTheKernelInvariant : Prop := Inv State.reset

/-- 10_state.md R31: `BUSY` and `DONE` are never both 1: every step keeps it, for every schedule. -/
def Obligations.BusyAndDoneAreNeverBothSet : Prop :=
  ∀ s t : State, (busy s && s.done) = false → step s = .next t → (busy t && t.done) = false

/-- 10_state.md R39, R44: reset leaves every register at the value the spec gives. The values of `w.*` and `k.*` are
the model's choice (assumption 4), and nothing is said of them. -/
def Obligations.ResetLeavesTheStatedValues : Prop :=
  let s := State.reset
  s.opa = 0 ∧ s.opb = 0 ∧ s.opm = 0 ∧ s.res = 0 ∧ s.gcd = 0 ∧ s.ex = 0 ∧ s.ey = 0 ∧ s.cmd = 0 ∧
  statusWord s = 0 ∧ ctrlWord s = 0 ∧ s.iter = 0 ∧ s.phase = .idle ∧ irq s = false ∧
  memRead 0x7C .b4 s = .data 0x52414B07#32

/-- 70_reset_and_hazards.md R245, R246: the reset step, taken in any state, running command or not, gives the reset
state. Nothing is said of `w.*` and `k.*` (the model's choice, assumption 4). That the steps still scheduled stay and
that no answer of the bus is left is the model's choice too (assumptions 1 and 6). -/
def Obligations.ResetStepDiscardsARunningCommand : Prop :=
  ∀ (s : State) (rest : List Action), s.pending = .reset :: rest →
    ∃ (w : Snapshot) (k : Kernel),
      step s =
        .next {
          opa := 0, opb := 0, opm := 0, res := 0, gcd := 0, ex := 0, ey := 0, cmd := 0, done := false, ovr := false,
          err := none, prime := false, coprime := false, xs := false, ys := false, ie := false, iter := 0,
          phase := .idle, w := w, k := k, pending := rest, reply := none }

/-- 10_state.md R39: `phase` leaves `IDLE` only by an accepted 4-byte write to `CMD`, and leaves `RUN` only by the
engine's commit or by reset, whatever is scheduled. -/
def Obligations.PhaseMovesOnlyAtAcceptCommitReset : Prop :=
  ∀ s t : State, step s = .next t →
    (s.phase = .idle → t.phase = .run →
      ∃ (v : Word) (rest : List Action), s.pending = .bus (.write 0x00 .b4 v) :: rest ∧ t.cmd = v ∧ t.w.cmd = v) ∧
    (s.phase = .run → t.phase = .idle →
      (∃ rest, s.pending = .reset :: rest) ∨
      ((s.pending = [] ∨ ∃ rest, s.pending = .engine :: rest) ∧ t.done = true))

/-- 10_state.md R32: `OVR` is sticky: a step clears it only where it is a write of 1 to bit 2 of `STATUS`, or reset; a
step sets it only where it is a write to `CMD` while a command runs. -/
def Obligations.OverrunFlagIsSticky : Prop :=
  ∀ s t : State, step s = .next t →
    (s.ovr = true → t.ovr = false →
      (∃ rest, s.pending = .reset :: rest) ∨
      (∃ (v : Word) (rest : List Action), s.pending = .bus (.write 0x04 .b4 v) :: rest ∧ v.toNat / 4 % 2 = 1)) ∧
    (s.ovr = false → t.ovr = true →
      s.phase = .run ∧ ∃ (v : Word) (rest : List Action), s.pending = .bus (.write 0x00 .b4 v) :: rest)

/-- 10_state.md R24 to R27, R34, R35, R37, R41: a result register or result flag changes only at reset and at the commit
of a command that writes it and ends without error, and `ITER` only at reset and at a commit. -/
def Obligations.ResultsChangeOnlyAtTheirCommitsOrReset : Prop :=
  ∀ s t : State, step s = .next t → (∀ rest, s.pending ≠ .reset :: rest) →
    (t.iter ≠ s.iter → s.phase = .run ∧ t.phase = .idle) ∧
    (t.res ≠ s.res → t.phase = .idle ∧ t.err = none ∧ ∃ src, Running (.modexp src) s ∨ Running (.mulmod src) s ∨
      Running (.modinv src) s ∨ Running (.fermat src) s) ∧
    (t.gcd ≠ s.gcd ∨ t.coprime ≠ s.coprime → t.phase = .idle ∧ t.err = none ∧ ∃ src, Running (.gcd src) s ∨
      Running (.egcd src) s ∨ Running (.modinv src) s) ∧
    (t.ex ≠ s.ex ∨ t.ey ≠ s.ey ∨ t.xs ≠ s.xs ∨ t.ys ≠ s.ys → t.phase = .idle ∧ t.err = none ∧
      ∃ src, Running (.egcd src) s ∨ Running (.modinv src) s) ∧
    (t.prime ≠ s.prime → t.phase = .idle ∧ t.err = none ∧ ∃ src, Running (.fermat src) s)

/-! ## The window -/

/-- 20_memory.md R60, R70: the offset of a bus address, whatever `BASE` is; an address outside the window is no access
to the block. -/
def Obligations.BusAddressesMapToOffsets : Prop :=
  (∀ off : BitVec 7, windowOffset (Config.base + off.toNat) = some off) ∧
  (∀ addr : Nat, addr < Config.base ∨ Config.base + 0x80 ≤ addr → windowOffset addr = none) ∧
  Config.base % 128 = 0

/-- 20_memory.md R65, R62: which accesses are legal, for every offset and every size, in the terms of the rule. -/
def Obligations.LegalAccessesAreThoseOfTheMap : Prop :=
  ∀ (off : BitVec 7) (n : Size),
    legalAccess off n = true ↔
      n ≠ .illegal ∧ off.toNat % n.bytes = 0 ∧
      ((off.toNat < 0x10 ∧ n = .b4) ∨ (0x10 ≤ off.toNat ∧ off.toNat < 0x28) ∨
        (0x30 ≤ off.toNat ∧ off.toNat < 0x50) ∨ (off.toNat = 0x7C ∧ n = .b4))

/-- 20_memory.md R68: an illegal access ends in the bus error and changes nothing (the field that holds the answer is the
model's, assumption 6). -/
def Obligations.IllegalAccessChangesNothing : Prop :=
  ∀ (off : BitVec 7) (n : Size) (v : Word) (s : State), legalAccess off n = false →
    busStep (.read off n) s = { s with reply := some .busError } ∧
    busStep (.write off n v) s = { s with reply := some .busError }

/-- 20_memory.md R64, R66: a legal read returns the touched bytes assembled big-endian, zero-extended, and has no side
effect. The spec marks R64 as derived from R63, and the field that holds the answer is the model's (assumption 6). -/
def Obligations.ReadsAssembleBytesBigEndian : Prop :=
  ∀ (off : BitVec 7) (n : Size) (s : State), legalAccess off n = true →
    ∃ (v : Word) (byte : Nat → Byte),
      busStep (.read off n) s = { s with reply := some (.data v) } ∧
      (∀ j : Nat, j < n.bytes → readByte (off.toNat + j) s = some (byte j)) ∧
      v.toNat = ((List.range n.bytes).map (fun j => (byte j).toNat * 256 ^ (n.bytes - 1 - j))).sum

/-- 20_memory.md R63: the bytes of every data register lie most significant first, and those of a control register
too. -/
def Obligations.RegisterBytesAreBigEndian : Prop :=
  ∀ (s : State) (k : Nat),
    (k < 8 →
      readByte (0x10 + k) s = some (s.opa.extractLsb' (56 - 8 * k) 8) ∧
      readByte (0x18 + k) s = some (s.opb.extractLsb' (56 - 8 * k) 8) ∧
      readByte (0x20 + k) s = some (s.opm.extractLsb' (56 - 8 * k) 8) ∧
      readByte (0x30 + k) s = some (s.res.extractLsb' (56 - 8 * k) 8) ∧
      readByte (0x38 + k) s = some (s.gcd.extractLsb' (56 - 8 * k) 8) ∧
      readByte (0x40 + k) s = some (s.ex.extractLsb' (56 - 8 * k) 8) ∧
      readByte (0x48 + k) s = some (s.ey.extractLsb' (56 - 8 * k) 8)) ∧
    (k < 4 →
      readByte (0x00 + k) s = some (s.cmd.extractLsb' (24 - 8 * k) 8) ∧
      readByte (0x04 + k) s = some ((statusWord s).extractLsb' (24 - 8 * k) 8) ∧
      readByte (0x08 + k) s = some ((ctrlWord s).extractLsb' (24 - 8 * k) 8) ∧
      readByte (0x0C + k) s = some (s.iter.extractLsb' (24 - 8 * k) 8) ∧
      readByte (0x7C + k) s = some ((0x52414B07#32).extractLsb' (24 - 8 * k) 8))

/-- 20_memory.md R67, its row on `OPA`, `OPB`, `OPM`, with its frame: after a legal write to an operand register each
touched byte is the big-endian byte of the value, every other byte of the window is as before, and so is everything of
the block that is not an operand register, busy or not. The field that holds the bus's answer is the model's
(assumption 6). -/
def Obligations.OperandWritesReplaceTheTouchedBytesOnly : Prop :=
  ∀ (off : BitVec 7) (n : Size) (v : Word) (s : State),
    legalAccess off n = true → 0x10 ≤ off.toNat → off.toNat < 0x28 →
    let t := busStep (.write off n v) s
    t = { s with opa := t.opa, opb := t.opb, opm := t.opm, reply := some .ack } ∧
    ∀ o : Nat, readByte o t =
      if off.toNat ≤ o ∧ o < off.toNat + n.bytes then
        some (BitVec.ofNat 8 (v.toNat / 256 ^ (n.bytes - 1 - (o - off.toNat))))
      else readByte o s

/-- 20_memory.md R69: a legal write to a read-only register is acknowledged and ignored, as the spec decides although
hardware might fault there (assumption 16). The field that holds the bus's answer is the model's (assumption 6). -/
def Obligations.ReadOnlyRegistersDiscardWrites : Prop :=
  ∀ (off : BitVec 7) (n : Size) (v : Word) (s : State), legalAccess off n = true →
    (off.toNat = 0x0C ∨ 0x30 ≤ off.toNat) →
    busStep (.write off n v) s = { s with reply := some .ack }

/-- 20_memory.md R67, its rows on `STATUS` and `CTRL`, and 60_exceptions.md R230: writing 1 to bits 1 and 2 of `STATUS`
clears `DONE` and `OVR`, so `irq` falls while `ERR` stays; `CTRL` takes its bit 0; nothing else changes. The field
that holds the bus's answer is the model's (assumption 6). -/
def Obligations.StatusAndCtrlWritesActOnTheirBitsOnly : Prop :=
  ∀ (v : Word) (s : State),
    busStep (.write 0x04 .b4 v) s =
      { s with
        done := if v.toNat / 2 % 2 = 1 then false else s.done
        ovr := if v.toNat / 4 % 2 = 1 then false else s.ovr
        reply := some .ack } ∧
    busStep (.write 0x08 .b4 v) s = { s with ie := decide (v.toNat % 2 = 1), reply := some .ack }

/-- 10_state.md R29, R30, R38: the word `STATUS` reads as, field by field, with its reserved bits 0, and that of `CTRL`. -/
def Obligations.StatusWordHasTheTabledLayout : Prop :=
  ∀ s : State,
    memRead 0x04 .b4 s = .data (BitVec.ofNat 32
      ((if s.phase = .run then 1 else 0) + 2 * s.done.toNat + 4 * s.ovr.toNat + 16 * (errCode s.err).toNat
        + 256 * s.prime.toNat + 512 * s.coprime.toNat + 1024 * s.xs.toNat + 2048 * s.ys.toNat)) ∧
    memRead 0x08 .b4 s = .data (BitVec.ofNat 32 s.ie.toNat)

/-- 60_exceptions.md R223, 10_state.md R43: the interrupt level is `IE` and `DONE`; the step that ends a command raises
it where it is enabled, error or not, the next accept drops it, and so does the acknowledge. -/
def Obligations.IrqFollowsDoneAndEnable : Prop :=
  (∀ s : State, irq s = true ↔ s.ie = true ∧ s.done = true) ∧
  (∀ s t : State, s.phase = .run → engineTurn s = .next t → t.phase = .idle → irq t = s.ie) ∧
  (∀ (s : State) (v : Word), s.phase = .idle → irq (busStep (.write 0x00 .b4 v) s) = false) ∧
  (∀ s : State, irq (busStep (.write 0x04 .b4 2) s) = false)

/-- 10_state.md R40, 40_command_lifecycle.md R115, 70_reset_and_hazards.md R252: no transaction of the host touches a
running command, its snapshot, or the results of the one before. -/
def Obligations.HostCannotDisturbARunningCommand : Prop :=
  ∀ (tr : Transaction) (s : State), s.phase = .run →
    let t := busStep tr s
    t.phase = .run ∧ t.w = s.w ∧ t.k = s.k ∧ t.cmd = s.cmd ∧ t.res = s.res ∧ t.gcd = s.gcd ∧ t.ex = s.ex ∧
    t.ey = s.ey ∧ t.iter = s.iter ∧ t.err = s.err ∧ t.prime = s.prime ∧ t.coprime = s.coprime ∧ t.xs = s.xs ∧
    t.ys = s.ys

/-- 10_state.md R40 with 00_scope.md R11: an engine step on a running command, taken after any list of host
transactions, leaves the phase, the hidden state, `ITER`, `ERR` and every result register and result flag as it would have
without them. -/
def Obligations.ResultsDoNotDependOnHostTransactions : Prop :=
  ∀ (s t u : State) (tr : List Transaction), s.phase = .run →
    engineTurn (tr.foldl (fun acc x => busStep x acc) s) = .next t → engineTurn s = .next u →
    t.phase = u.phase ∧ t.w = u.w ∧ t.k = u.k ∧ t.res = u.res ∧ t.gcd = u.gcd ∧ t.ex = u.ex ∧ t.ey = u.ey ∧
    t.iter = u.iter ∧ t.err = u.err ∧ t.prime = u.prime ∧ t.coprime = u.coprime ∧ t.xs = u.xs ∧ t.ys = u.ys

/-! ## The host's contracts -/

/-- 45_host_block_pipeline.md R197: `pad` and `unpad` are exact inverses on lengths that are multiples of 4; on others
the round trip returns the input followed by 0 to 3 zero bytes. R195: the padded length is twice the extended one. -/
def Obligations.UnpadInvertsPad : Prop :=
  ∀ bytes : List Byte,
    (bytes.length % 4 = 0 → unpad (pad bytes) = bytes ∧ (pad bytes).length = 2 * bytes.length) ∧
    (∃ z : Nat, z ≤ 3 ∧ unpad (pad bytes) = bytes ++ List.replicate z 0) ∧ (pad bytes).length % 8 = 0

/-- 45_host_block_pipeline.md R199 (JRSA §8): `bytesToBlocks` then `blocksToBytes` reproduces the buffer extended to a
multiple of 8, and the other way round every list of blocks. -/
def Obligations.BlockCodecRoundTrips : Prop :=
  (∀ bytes : List Byte, blocksToBytes (bytesToBlocks bytes) = zeroExtendTo 8 bytes) ∧
  (∀ blocks : List Dword, bytesToBlocks (blocksToBytes blocks) = blocks)

/-- 45_host_block_pipeline.md R198, its last sentence: the eight bytes of a group written in order to offsets `0x10` to
`0x17` leave the block's value in `OPA`. -/
def Obligations.BlockBytesWrittenInOrderGiveTheBlock : Prop :=
  ∀ (b0 b1 b2 b3 b4 b5 b6 b7 : Byte) (s : State),
    let put (off : BitVec 7) (b : Byte) (s : State) : State := busStep (.write off .b1 (b.setWidth 32)) s
    (put 0x17 b7 (put 0x16 b6 (put 0x15 b5 (put 0x14 b4 (put 0x13 b3 (put 0x12 b2 (put 0x11 b1 (put 0x10 b0 s)))))))).opa
      = blockOfBytes b0 b1 b2 b3 b4 b5 b6 b7

/-- 45_host_block_pipeline.md R203: decryption undoes encryption for every buffer whose length is a multiple of 4 and
whose padded blocks are below the modulus and round-trip under the key; the two conditions are the host's duty
(90_conflicts.md C1, C5). -/
def Obligations.DecryptUndoesEncrypt : Prop :=
  ∀ (e d n : Dword) (bytes : List Byte), n ≠ 0 → bytes.length % 4 = 0 →
    (∀ v ∈ bytesToBlocks (pad bytes),
      v.toNat < n.toNat ∧ (v.toNat ^ e.toNat % n.toNat) ^ d.toNat % n.toNat = v.toNat) →
    ∃ cipher : List Byte,
      encrypt { exponent := e, modulus := n } bytes = some cipher ∧ cipher.length = 2 * bytes.length ∧
      decrypt { exponent := d, modulus := n } cipher = some bytes

/-- 44_host_keygen.md R181, R184, R185, R186 and 45_host_block_pipeline.md R201: what the host's contracts ask of a
command is what the command, written to `CMD` on an idle block and left to the engine, leaves in its registers. That
the engine steps when nothing is scheduled is the model's choice (assumptions 1 and 2). -/
def Obligations.CommandsCarryTheHostContracts : Prop :=
  ∀ s : State, s.phase = .idle → s.pending = [] →
    (s.opa ≠ 0 → ∃ (n : Nat) (t : State), core.run n (busStep (.write 0x00 .b4 0x06#32) s) = .next t ∧
      t.phase = .idle ∧ t.done = true ∧ t.err = none ∧ t.prime = fermatAccepts s.opa.toNat) ∧
    (∃ (n : Nat) (t : State), core.run n (busStep (.write 0x00 .b4 0x03#32) s) = .next t ∧
      t.phase = .idle ∧ t.done = true ∧ t.err = none ∧ t.coprime = coprime s.opa.toNat s.opb.toNat) ∧
    (∃ (n : Nat) (t : State), core.run n (busStep (.write 0x00 .b4 0x05#32) s) = .next t ∧
      t.phase = .idle ∧ t.done = true ∧ t.err = none ∧
      (t.res.toNat : Int) = modularInverse s.opa.toNat s.opm.toNat) ∧
    (s.opm ≠ 0 → ∃ (n : Nat) (t : State), core.run n (busStep (.write 0x00 .b4 0x02#32) s) = .next t ∧
      t.phase = .idle ∧ t.done = true ∧ t.err = none ∧
      t.res.toNat = s.opa.toNat * s.opb.toNat % s.opm.toNat) ∧
    (∃ (n : Nat) (t : State), core.run n (busStep (.write 0x00 .b4 0x01#32) s) = .next t ∧
      t.phase = .idle ∧ t.done = true ∧
      (if t.err = none then some t.res else none) = transformBlock { exponent := s.opb, modulus := s.opm } s.opa)

/-- 44_host_keygen.md R180, R184: the prime search answers the first draw in `[2^lowBits, 2^highBits)` that passes the
base-2 test, and the exponent search the first draw in `[0, 2^eBits)` coprime to `phi`. That values outside the range
are passed over is the model's choice (assumption 14). -/
def Obligations.SearchesAnswerTheFirstDrawThatPasses : Prop :=
  (∀ (params : KeyParams) (draws rest : List Nat) (c : Nat),
    generatePrime params draws = some (c, rest) ↔
      ∃ before : List Nat, draws = before ++ c :: rest ∧
        2 ^ params.lowBits ≤ c ∧ c < 2 ^ params.highBits ∧ 2 ^ (c - 1) % c = 1 ∧
        ∀ x ∈ before, 2 ^ params.lowBits ≤ x → x < 2 ^ params.highBits → 2 ^ (x - 1) % x ≠ 1) ∧
  (∀ (params : KeyParams) (phi : Nat) (draws rest : List Nat) (e : Nat),
    drawExponent params phi draws = some (e, rest) ↔
      ∃ before : List Nat, draws = before ++ e :: rest ∧
        e < 2 ^ params.eBits ∧ e ≠ 0 ∧ phi ≠ 0 ∧ Nat.gcd e phi = 1 ∧
        ∀ x ∈ before, x < 2 ^ params.eBits → x = 0 ∨ phi = 0 ∨ Nat.gcd x phi ≠ 1)

/-- 44_host_keygen.md R183 to R187: the keys the key builder answers come from candidates of the configured range that
pass the base-2 test, an exponent of the configured range coprime to `phi`, and its modular inverse, and meet the seven
checks. At which step equal primes are rejected is the model's choice (assumption 20), and the statement does not say. -/
def Obligations.AcceptedKeysMeetTheSevenChecks : Prop :=
  ∀ (params : KeyParams) (tries : Nat) (drawsC drawsE : List Nat) (keys : KeyPair),
    buildKeyPair params tries drawsC drawsE = some keys →
    ∃ p q n phi e d : Nat,
      keys.publicKey.exponent.toNat = e ∧ keys.publicKey.modulus.toNat = n ∧
      keys.privateKey.exponent.toNat = d ∧ keys.privateKey.modulus.toNat = n ∧
      p ∈ drawsC ∧ q ∈ drawsC ∧ e ∈ drawsE ∧
      2 ^ params.lowBits ≤ p ∧ p < 2 ^ params.highBits ∧ 2 ^ params.lowBits ≤ q ∧ q < 2 ^ params.highBits ∧
      e < 2 ^ params.eBits ∧
      2 ^ (p - 1) % p = 1 ∧ 2 ^ (q - 1) % q = 1 ∧
      n = p * q ∧ phi = (p - 1) * (q - 1) ∧ Nat.gcd e phi = 1 ∧
      e * d % phi = 1 ∧ 0 < e ∧ 0 < d ∧ d ≠ 1 ∧ e ≠ 1 ∧ e ≠ d ∧
      (2 ^ e % n) ^ d % n = 2 ∧ (params.rejectEqualPrimes = true → p ≠ q)

/-- 30_encoding.md R97, 20_memory.md R68: a write or read statement of a host script makes its one transaction and the
script goes on with the next statement, whatever the bus answers; a legal read names its data, and after a bus error
the name holds no value. How a script is held is the model's choice (assumption 19). -/
def Obligations.HostStatementsMakeOneTransactionAndGoOn : Prop :=
  (∀ (h : HostState) (s : State) (n : Size) (off : BitVec 7) (v : HostExpr) (x : Int),
    h.script[h.position]? = some (.wr n off v) → v.eval h = some x →
    hostStep h s = .next { h with position := h.position + 1 } (busStep (.write off n (BitVec.ofInt 32 x)) s)) ∧
  (∀ (h : HostState) (s : State) (n : Size) (off : BitVec 7) (name : HostName),
    h.script[h.position]? = some (.rd n off name) →
    ∃ h' : HostState,
      hostStep h s = .next h' (busStep (.read off n) s) ∧
      h'.script = h.script ∧ h'.draws = h.draws ∧ h'.position = h.position + 1 ∧
      (∀ v : Word, memRead off n s = .data v → h'.value name = some (v.toNat : Int)) ∧
      (legalAccess off n = false → h'.value name = none) ∧
      (∀ other : HostName, other ≠ name → h'.value other = h.value other))
end

