-- ==== Sys2Proof/Laws/Decode.lean ====
section
/-! SUPPORT. The decoder, the encoder and the table of legal words (30_encoding.md R93 to R96). -/

namespace Sys2Proof

/-- The decoder's three exits by the word's fields, once, so that no proof unfolds it. -/
theorem decodeWord_cases (w : Word) :
    (w.extractLsb' 5 27 ≠ 0#27 ∧ decodeWord w = .illegal .reservedBits) ∨
    (w.extractLsb' 5 27 = 0#27 ∧ 7 ≤ (w.extractLsb' 0 4).toNat ∧ decodeWord w = .illegal .reservedOpcode) ∨
    (w.extractLsb' 5 27 = 0#27 ∧ (w.extractLsb' 0 4).toNat < 7 ∧ ∃ i : Instr, decodeWord w = .ok i ∧
      (w.extractLsb' 0 4).toNat = i.opcode.toNat ∧ (i = .nop ∨ i.source = asField w)) := by
  unfold decodeWord
  by_cases h : w.extractLsb' 5 27 = 0#27
  · simp only [h, if_true]
    right
    generalize hk : (w.extractLsb' 0 4).toNat = k
    match k with
    | 0 | 1 | 2 | 3 | 4 | 5 | 6 => right; simp [Instr.opcode, Instr.source]
    | k + 7 => left; simp
  · simp [h]

/-- The assembler's words disassemble to the texts beside them (30_encoding.md R96). -/
theorem assemblerTable_disassembles : ∀ row ∈ assemblerTable, disassemble row.2 = some row.1 := by decide

end Sys2Proof
end

