-- ==== Sys2Proof/Laws/Host.lean ====
section
/-! SUPPORT. What the host's shared operations can do: a search over draws, the values a script holds, and a `goto`. -/

namespace Sys2Proof.Machine

variable {range : DrawRange} {test : Nat → Bool} {draws rest : List Nat} {c : Nat}

@[simp] theorem DrawRange.contains_iff : range.contains c = true ↔ range.low ≤ c ∧ c < range.high := by
  simp [DrawRange.contains]

/-- What a search answers is a draw of its range that passes its test, and what is left was there before. -/
theorem searchDraws_some (h : searchDraws range test draws = some (c, rest)) :
    c ∈ draws ∧ range.contains c = true ∧ test c = true ∧ rest ⊆ draws := by
  induction draws with
  | nil => cases h
  | cons x draws ih =>
    simp only [searchDraws] at h
    split at h
    · rename_i passes
      cases h
      rw [Bool.and_eq_true] at passes
      exact ⟨List.mem_cons_self, passes.1, passes.2, List.subset_cons_self _ _⟩
    · obtain ⟨mem, inRange, passes, left⟩ := ih h
      exact ⟨List.mem_cons_of_mem _ mem, inRange, passes, List.subset_cons_of_subset _ left⟩

/-- What a draw answers is a value of its range, and what is left was there before. -/
theorem nextDraw_some (h : nextDraw range draws = some (c, rest)) :
    c ∈ draws ∧ range.contains c = true ∧ rest ⊆ draws := by
  induction draws with
  | nil => cases h
  | cons x draws ih =>
    simp only [nextDraw] at h
    split at h
    · rename_i inRange
      cases h
      exact ⟨List.mem_cons_self, inRange, List.subset_cons_self _ _⟩
    · obtain ⟨mem, inRange, left⟩ := ih h
      exact ⟨List.mem_cons_of_mem _ mem, inRange, List.subset_cons_of_subset _ left⟩

@[simp] theorem HostState.bind_script (h : HostState) (name : HostName) (v : Option Int) :
    (h.bind name v).script = h.script := by cases v <;> rfl

@[simp] theorem HostState.bind_position (h : HostState) (name : HostName) (v : Option Int) :
    (h.bind name v).position = h.position := by cases v <;> rfl

@[simp] theorem HostState.bind_draws (h : HostState) (name : HostName) (v : Option Int) :
    (h.bind name v).draws = h.draws := by cases v <;> rfl

@[simp] theorem HostState.advance_script (h : HostState) : h.advance.script = h.script := rfl
@[simp] theorem HostState.advance_position (h : HostState) : h.advance.position = h.position + 1 := rfl
@[simp] theorem HostState.advance_vars (h : HostState) : h.advance.vars = h.vars := rfl
@[simp] theorem HostState.advance_draws (h : HostState) : h.advance.draws = h.draws := rfl

@[simp] theorem HostState.value_advance (h : HostState) (name : HostName) : h.advance.value name = h.value name := rfl

/-- A name holds what was bound to it. -/
@[simp] theorem HostState.value_bind_same (h : HostState) (name : HostName) (v : Option Int) :
    (h.bind name v).value name = v := by
  cases v <;> simp [HostState.bind, HostState.value]

/-- Binding a name leaves every other name alone. -/
theorem HostState.value_bind_other (h : HostState) {name other : HostName} (v : Option Int) (ne : other ≠ name) :
    (h.bind name v).value other = h.value other := by
  have keep : (h.vars.filter (fun entry => entry.1 != name)).find? (fun entry => entry.1 == other) =
      h.vars.find? (fun entry => entry.1 == other) := by
    rw [List.find?_filter]
    congr 1
    funext entry
    by_cases same : entry.1 = other
    · simp [same, ne]
    · simp [same]
  cases v with
  | none => simp only [HostState.bind, HostState.value, keep]
  | some v => simp [HostState.bind, HostState.value, keep, ne.symm]

/-- A `goto` goes to a statement of the script, or leaves it to the label; the block stays as it is. -/
theorem HostState.goTo_cases (h : HostState) (target : HostName) (s : State) :
    (∃ position, h.goTo target s = .next { h with position := position } s ∧ position < h.script.length) ∨
    h.goTo target s = .ended (.leftTo target) := by
  unfold HostState.goTo
  split
  · rename_i position found
    exact .inl ⟨position, rfl, (List.findIdx?_eq_some_iff_getElem.1 found).1⟩
  · exact .inr rfl

end Sys2Proof.Machine
end

