-- ==== Sys2Proof/Laws/State.lean ====
section
/-! SUPPORT. What each shared operation does to each field of the state, one lemma a field, so that no proof unfolds a
record update. -/

namespace Sys2Proof.Machine

/-! The error entry, field by field (60_exceptions.md R217). -/

@[simp] theorem raiseError_opa (c : CmdError) (s : State) : (raiseError c s).opa = s.opa := rfl
@[simp] theorem raiseError_opb (c : CmdError) (s : State) : (raiseError c s).opb = s.opb := rfl
@[simp] theorem raiseError_opm (c : CmdError) (s : State) : (raiseError c s).opm = s.opm := rfl
@[simp] theorem raiseError_res (c : CmdError) (s : State) : (raiseError c s).res = s.res := rfl
@[simp] theorem raiseError_gcd (c : CmdError) (s : State) : (raiseError c s).gcd = s.gcd := rfl
@[simp] theorem raiseError_ex (c : CmdError) (s : State) : (raiseError c s).ex = s.ex := rfl
@[simp] theorem raiseError_ey (c : CmdError) (s : State) : (raiseError c s).ey = s.ey := rfl
@[simp] theorem raiseError_cmd (c : CmdError) (s : State) : (raiseError c s).cmd = s.cmd := rfl
@[simp] theorem raiseError_done (c : CmdError) (s : State) : (raiseError c s).done = true := rfl
@[simp] theorem raiseError_ovr (c : CmdError) (s : State) : (raiseError c s).ovr = s.ovr := rfl
@[simp] theorem raiseError_err (c : CmdError) (s : State) : (raiseError c s).err = some c := rfl
@[simp] theorem raiseError_prime (c : CmdError) (s : State) : (raiseError c s).prime = s.prime := rfl
@[simp] theorem raiseError_coprime (c : CmdError) (s : State) : (raiseError c s).coprime = s.coprime := rfl
@[simp] theorem raiseError_xs (c : CmdError) (s : State) : (raiseError c s).xs = s.xs := rfl
@[simp] theorem raiseError_ys (c : CmdError) (s : State) : (raiseError c s).ys = s.ys := rfl
@[simp] theorem raiseError_ie (c : CmdError) (s : State) : (raiseError c s).ie = s.ie := rfl
@[simp] theorem raiseError_iter (c : CmdError) (s : State) : (raiseError c s).iter = 0 := rfl
@[simp] theorem raiseError_phase (c : CmdError) (s : State) : (raiseError c s).phase = .idle := rfl
@[simp] theorem raiseError_w (c : CmdError) (s : State) : (raiseError c s).w = s.w := rfl
@[simp] theorem raiseError_k (c : CmdError) (s : State) : (raiseError c s).k = s.k := rfl
@[simp] theorem raiseError_pending (c : CmdError) (s : State) : (raiseError c s).pending = s.pending := rfl
@[simp] theorem raiseError_reply (c : CmdError) (s : State) : (raiseError c s).reply = s.reply := rfl

/-! The commit without error, field by field (40_command_lifecycle.md R114). -/

@[simp] theorem commitOk_opa (ws : Writes) (s : State) : (commitOk ws s).opa = s.opa := rfl
@[simp] theorem commitOk_opb (ws : Writes) (s : State) : (commitOk ws s).opb = s.opb := rfl
@[simp] theorem commitOk_opm (ws : Writes) (s : State) : (commitOk ws s).opm = s.opm := rfl
@[simp] theorem commitOk_res (ws : Writes) (s : State) : (commitOk ws s).res = ws.res.getD s.res := rfl
@[simp] theorem commitOk_gcd (ws : Writes) (s : State) : (commitOk ws s).gcd = ws.gcd.getD s.gcd := rfl
@[simp] theorem commitOk_ex (ws : Writes) (s : State) : (commitOk ws s).ex = (ws.x.map tc65Low).getD s.ex := rfl
@[simp] theorem commitOk_ey (ws : Writes) (s : State) : (commitOk ws s).ey = (ws.y.map tc65Low).getD s.ey := rfl
@[simp] theorem commitOk_cmd (ws : Writes) (s : State) : (commitOk ws s).cmd = s.cmd := rfl
@[simp] theorem commitOk_done (ws : Writes) (s : State) : (commitOk ws s).done = true := rfl
@[simp] theorem commitOk_ovr (ws : Writes) (s : State) : (commitOk ws s).ovr = s.ovr := rfl
@[simp] theorem commitOk_err (ws : Writes) (s : State) : (commitOk ws s).err = none := rfl
@[simp] theorem commitOk_prime (ws : Writes) (s : State) : (commitOk ws s).prime = ws.prime.getD s.prime := rfl
@[simp] theorem commitOk_coprime (ws : Writes) (s : State) : (commitOk ws s).coprime = ws.coprime.getD s.coprime := rfl
@[simp] theorem commitOk_xs (ws : Writes) (s : State) : (commitOk ws s).xs = (ws.x.map tc65Sign).getD s.xs := rfl
@[simp] theorem commitOk_ys (ws : Writes) (s : State) : (commitOk ws s).ys = (ws.y.map tc65Sign).getD s.ys := rfl
@[simp] theorem commitOk_ie (ws : Writes) (s : State) : (commitOk ws s).ie = s.ie := rfl
@[simp] theorem commitOk_iter (ws : Writes) (s : State) : (commitOk ws s).iter = BitVec.ofNat 32 ws.n := rfl
@[simp] theorem commitOk_phase (ws : Writes) (s : State) : (commitOk ws s).phase = .idle := rfl
@[simp] theorem commitOk_w (ws : Writes) (s : State) : (commitOk ws s).w = s.w := rfl
@[simp] theorem commitOk_k (ws : Writes) (s : State) : (commitOk ws s).k = s.k := rfl
@[simp] theorem commitOk_pending (ws : Writes) (s : State) : (commitOk ws s).pending = s.pending := rfl
@[simp] theorem commitOk_reply (ws : Writes) (s : State) : (commitOk ws s).reply = s.reply := rfl

/-! Accept, field by field (40_command_lifecycle.md R111). -/

@[simp] theorem accept_opa (v : Word) (s : State) : (accept v s).opa = s.opa := rfl
@[simp] theorem accept_opb (v : Word) (s : State) : (accept v s).opb = s.opb := rfl
@[simp] theorem accept_opm (v : Word) (s : State) : (accept v s).opm = s.opm := rfl
@[simp] theorem accept_res (v : Word) (s : State) : (accept v s).res = s.res := rfl
@[simp] theorem accept_gcd (v : Word) (s : State) : (accept v s).gcd = s.gcd := rfl
@[simp] theorem accept_ex (v : Word) (s : State) : (accept v s).ex = s.ex := rfl
@[simp] theorem accept_ey (v : Word) (s : State) : (accept v s).ey = s.ey := rfl
@[simp] theorem accept_cmd (v : Word) (s : State) : (accept v s).cmd = v := rfl
@[simp] theorem accept_done (v : Word) (s : State) : (accept v s).done = false := rfl
@[simp] theorem accept_ovr (v : Word) (s : State) : (accept v s).ovr = s.ovr := rfl
@[simp] theorem accept_err (v : Word) (s : State) : (accept v s).err = none := rfl
@[simp] theorem accept_prime (v : Word) (s : State) : (accept v s).prime = s.prime := rfl
@[simp] theorem accept_coprime (v : Word) (s : State) : (accept v s).coprime = s.coprime := rfl
@[simp] theorem accept_xs (v : Word) (s : State) : (accept v s).xs = s.xs := rfl
@[simp] theorem accept_ys (v : Word) (s : State) : (accept v s).ys = s.ys := rfl
@[simp] theorem accept_ie (v : Word) (s : State) : (accept v s).ie = s.ie := rfl
@[simp] theorem accept_iter (v : Word) (s : State) : (accept v s).iter = s.iter := rfl
@[simp] theorem accept_phase (v : Word) (s : State) : (accept v s).phase = .run := rfl
@[simp] theorem accept_w (v : Word) (s : State) : (accept v s).w = snapshot v s := rfl
@[simp] theorem accept_k (v : Word) (s : State) : (accept v s).k = kernelInit (snapshot v s) s.k := rfl
@[simp] theorem accept_pending (v : Word) (s : State) : (accept v s).pending = s.pending := rfl
@[simp] theorem accept_reply (v : Word) (s : State) : (accept v s).reply = s.reply := rfl

/-! Overrun, field by field (40_command_lifecycle.md R112). -/

@[simp] theorem overrun_opa (s : State) : (overrun s).opa = s.opa := rfl
@[simp] theorem overrun_opb (s : State) : (overrun s).opb = s.opb := rfl
@[simp] theorem overrun_opm (s : State) : (overrun s).opm = s.opm := rfl
@[simp] theorem overrun_res (s : State) : (overrun s).res = s.res := rfl
@[simp] theorem overrun_gcd (s : State) : (overrun s).gcd = s.gcd := rfl
@[simp] theorem overrun_ex (s : State) : (overrun s).ex = s.ex := rfl
@[simp] theorem overrun_ey (s : State) : (overrun s).ey = s.ey := rfl
@[simp] theorem overrun_cmd (s : State) : (overrun s).cmd = s.cmd := rfl
@[simp] theorem overrun_done (s : State) : (overrun s).done = s.done := rfl
@[simp] theorem overrun_ovr (s : State) : (overrun s).ovr = true := rfl
@[simp] theorem overrun_err (s : State) : (overrun s).err = s.err := rfl
@[simp] theorem overrun_prime (s : State) : (overrun s).prime = s.prime := rfl
@[simp] theorem overrun_coprime (s : State) : (overrun s).coprime = s.coprime := rfl
@[simp] theorem overrun_xs (s : State) : (overrun s).xs = s.xs := rfl
@[simp] theorem overrun_ys (s : State) : (overrun s).ys = s.ys := rfl
@[simp] theorem overrun_ie (s : State) : (overrun s).ie = s.ie := rfl
@[simp] theorem overrun_iter (s : State) : (overrun s).iter = s.iter := rfl
@[simp] theorem overrun_phase (s : State) : (overrun s).phase = s.phase := rfl
@[simp] theorem overrun_w (s : State) : (overrun s).w = s.w := rfl
@[simp] theorem overrun_k (s : State) : (overrun s).k = s.k := rfl
@[simp] theorem overrun_pending (s : State) : (overrun s).pending = s.pending := rfl
@[simp] theorem overrun_reply (s : State) : (overrun s).reply = s.reply := rfl

/-! The acknowledge, field by field (20_memory.md R67). -/

@[simp] theorem writeStatus_opa (v : Word) (s : State) : (writeStatus v s).opa = s.opa := rfl
@[simp] theorem writeStatus_opb (v : Word) (s : State) : (writeStatus v s).opb = s.opb := rfl
@[simp] theorem writeStatus_opm (v : Word) (s : State) : (writeStatus v s).opm = s.opm := rfl
@[simp] theorem writeStatus_res (v : Word) (s : State) : (writeStatus v s).res = s.res := rfl
@[simp] theorem writeStatus_gcd (v : Word) (s : State) : (writeStatus v s).gcd = s.gcd := rfl
@[simp] theorem writeStatus_ex (v : Word) (s : State) : (writeStatus v s).ex = s.ex := rfl
@[simp] theorem writeStatus_ey (v : Word) (s : State) : (writeStatus v s).ey = s.ey := rfl
@[simp] theorem writeStatus_cmd (v : Word) (s : State) : (writeStatus v s).cmd = s.cmd := rfl
@[simp] theorem writeStatus_done (v : Word) (s : State) : (writeStatus v s).done = (s.done && !v.getLsbD 1) := rfl
@[simp] theorem writeStatus_ovr (v : Word) (s : State) : (writeStatus v s).ovr = (s.ovr && !v.getLsbD 2) := rfl
@[simp] theorem writeStatus_err (v : Word) (s : State) : (writeStatus v s).err = s.err := rfl
@[simp] theorem writeStatus_prime (v : Word) (s : State) : (writeStatus v s).prime = s.prime := rfl
@[simp] theorem writeStatus_coprime (v : Word) (s : State) : (writeStatus v s).coprime = s.coprime := rfl
@[simp] theorem writeStatus_xs (v : Word) (s : State) : (writeStatus v s).xs = s.xs := rfl
@[simp] theorem writeStatus_ys (v : Word) (s : State) : (writeStatus v s).ys = s.ys := rfl
@[simp] theorem writeStatus_ie (v : Word) (s : State) : (writeStatus v s).ie = s.ie := rfl
@[simp] theorem writeStatus_iter (v : Word) (s : State) : (writeStatus v s).iter = s.iter := rfl
@[simp] theorem writeStatus_phase (v : Word) (s : State) : (writeStatus v s).phase = s.phase := rfl
@[simp] theorem writeStatus_w (v : Word) (s : State) : (writeStatus v s).w = s.w := rfl
@[simp] theorem writeStatus_k (v : Word) (s : State) : (writeStatus v s).k = s.k := rfl
@[simp] theorem writeStatus_pending (v : Word) (s : State) : (writeStatus v s).pending = s.pending := rfl
@[simp] theorem writeStatus_reply (v : Word) (s : State) : (writeStatus v s).reply = s.reply := rfl

/-! The write to `CTRL`, field by field (20_memory.md R67). -/

@[simp] theorem writeCtrl_opa (v : Word) (s : State) : (writeCtrl v s).opa = s.opa := rfl
@[simp] theorem writeCtrl_opb (v : Word) (s : State) : (writeCtrl v s).opb = s.opb := rfl
@[simp] theorem writeCtrl_opm (v : Word) (s : State) : (writeCtrl v s).opm = s.opm := rfl
@[simp] theorem writeCtrl_res (v : Word) (s : State) : (writeCtrl v s).res = s.res := rfl
@[simp] theorem writeCtrl_gcd (v : Word) (s : State) : (writeCtrl v s).gcd = s.gcd := rfl
@[simp] theorem writeCtrl_ex (v : Word) (s : State) : (writeCtrl v s).ex = s.ex := rfl
@[simp] theorem writeCtrl_ey (v : Word) (s : State) : (writeCtrl v s).ey = s.ey := rfl
@[simp] theorem writeCtrl_cmd (v : Word) (s : State) : (writeCtrl v s).cmd = s.cmd := rfl
@[simp] theorem writeCtrl_done (v : Word) (s : State) : (writeCtrl v s).done = s.done := rfl
@[simp] theorem writeCtrl_ovr (v : Word) (s : State) : (writeCtrl v s).ovr = s.ovr := rfl
@[simp] theorem writeCtrl_err (v : Word) (s : State) : (writeCtrl v s).err = s.err := rfl
@[simp] theorem writeCtrl_prime (v : Word) (s : State) : (writeCtrl v s).prime = s.prime := rfl
@[simp] theorem writeCtrl_coprime (v : Word) (s : State) : (writeCtrl v s).coprime = s.coprime := rfl
@[simp] theorem writeCtrl_xs (v : Word) (s : State) : (writeCtrl v s).xs = s.xs := rfl
@[simp] theorem writeCtrl_ys (v : Word) (s : State) : (writeCtrl v s).ys = s.ys := rfl
@[simp] theorem writeCtrl_ie (v : Word) (s : State) : (writeCtrl v s).ie = v.getLsbD 0 := rfl
@[simp] theorem writeCtrl_iter (v : Word) (s : State) : (writeCtrl v s).iter = s.iter := rfl
@[simp] theorem writeCtrl_phase (v : Word) (s : State) : (writeCtrl v s).phase = s.phase := rfl
@[simp] theorem writeCtrl_w (v : Word) (s : State) : (writeCtrl v s).w = s.w := rfl
@[simp] theorem writeCtrl_k (v : Word) (s : State) : (writeCtrl v s).k = s.k := rfl
@[simp] theorem writeCtrl_pending (v : Word) (s : State) : (writeCtrl v s).pending = s.pending := rfl
@[simp] theorem writeCtrl_reply (v : Word) (s : State) : (writeCtrl v s).reply = s.reply := rfl

/-! The reset step, field by field (70_reset_and_hazards.md R245). -/

@[simp] theorem resetStep_opa (s : State) : (resetStep s).opa = State.reset.opa := rfl
@[simp] theorem resetStep_opb (s : State) : (resetStep s).opb = State.reset.opb := rfl
@[simp] theorem resetStep_opm (s : State) : (resetStep s).opm = State.reset.opm := rfl
@[simp] theorem resetStep_res (s : State) : (resetStep s).res = State.reset.res := rfl
@[simp] theorem resetStep_gcd (s : State) : (resetStep s).gcd = State.reset.gcd := rfl
@[simp] theorem resetStep_ex (s : State) : (resetStep s).ex = State.reset.ex := rfl
@[simp] theorem resetStep_ey (s : State) : (resetStep s).ey = State.reset.ey := rfl
@[simp] theorem resetStep_cmd (s : State) : (resetStep s).cmd = State.reset.cmd := rfl
@[simp] theorem resetStep_done (s : State) : (resetStep s).done = State.reset.done := rfl
@[simp] theorem resetStep_ovr (s : State) : (resetStep s).ovr = State.reset.ovr := rfl
@[simp] theorem resetStep_err (s : State) : (resetStep s).err = State.reset.err := rfl
@[simp] theorem resetStep_prime (s : State) : (resetStep s).prime = State.reset.prime := rfl
@[simp] theorem resetStep_coprime (s : State) : (resetStep s).coprime = State.reset.coprime := rfl
@[simp] theorem resetStep_xs (s : State) : (resetStep s).xs = State.reset.xs := rfl
@[simp] theorem resetStep_ys (s : State) : (resetStep s).ys = State.reset.ys := rfl
@[simp] theorem resetStep_ie (s : State) : (resetStep s).ie = State.reset.ie := rfl
@[simp] theorem resetStep_iter (s : State) : (resetStep s).iter = State.reset.iter := rfl
@[simp] theorem resetStep_phase (s : State) : (resetStep s).phase = State.reset.phase := rfl
@[simp] theorem resetStep_w (s : State) : (resetStep s).w = State.reset.w := rfl
@[simp] theorem resetStep_k (s : State) : (resetStep s).k = State.reset.k := rfl
@[simp] theorem resetStep_pending (s : State) : (resetStep s).pending = s.pending := rfl
@[simp] theorem resetStep_reply (s : State) : (resetStep s).reply = State.reset.reply := rfl

end Sys2Proof.Machine
end

