-- ==== Sys2Proof/Laws/Ops.lean ====
section
/-! SUPPORT. What each shared operation can do, said once: the engine's step, the host's transactions, the turn of the
engine, and a step of the machine. -/

namespace Sys2Proof.Machine

/-! The engine's step (40_command_lifecycle.md R113). -/

@[simp] theorem engineStep_error (c : CmdError) (more : Bool) (body : Kernel → Kernel) (s : State) :
    engineStep (.error c) more body s = raiseError c s := rfl

@[simp] theorem engineStep_more (ws : Writes) (body : Kernel → Kernel) (s : State) :
    engineStep (.ok ws) true body s = { s with k := body s.k } := rfl

@[simp] theorem engineStep_done (ws : Writes) (body : Kernel → Kernel) (s : State) :
    engineStep (.ok ws) false body s = commitOk ws s := rfl

/-- The engine's step is an error entry, an `iterate` or a commit, by what the command would commit and `more`. -/
theorem engineStep_cases (r : CommandResult) (more : Bool) (body : Kernel → Kernel) (s : State) :
    (∃ c, r = .error c ∧ engineStep r more body s = raiseError c s) ∨
    (∃ ws, r = .ok ws ∧ more = true ∧ engineStep r more body s = { s with k := body s.k }) ∨
    (∃ ws, r = .ok ws ∧ more = false ∧ engineStep r more body s = commitOk ws s) := by
  cases r with
  | error c => exact .inl ⟨c, rfl, rfl⟩
  | ok ws => cases more <;> simp

/-! The seven meanings, each as the engine's step on its own result. -/

/-- What a command commits, by the kernel registers. -/
def kernelResult (i : Instr) (s : State) : CommandResult :=
  match i with
  | .nop => nopResult
  | .modexp _ => modexpResult s
  | .mulmod _ => mulmodResult s
  | .gcd _ => gcdResult s
  | .egcd _ => egcdResult s
  | .modinv _ => modinvResult s
  | .fermat _ => fermatResult s

/-- `more(k)` of a command (40_command_lifecycle.md R113). -/
def commandMore (i : Instr) (k : Kernel) : Bool :=
  match i with
  | .nop => false
  | .modexp _ => powerMore k
  | .mulmod _ => false
  | .gcd _ => euclidMore k
  | .egcd _ => euclidMore k
  | .modinv _ => euclidMore k
  | .fermat _ => powerMore k

/-- The loop body of a command (40_command_lifecycle.md R113). -/
def commandBody (i : Instr) (k : Kernel) : Kernel :=
  match i with
  | .nop => k
  | .modexp _ => powerBody k
  | .mulmod _ => k
  | .gcd _ => euclidBody k
  | .egcd _ => euclidBody k
  | .modinv _ => euclidBody k
  | .fermat _ => powerBody k

/-- Every meaning is the engine's step on the command's result, loop condition and loop body. -/
theorem exec_eq_engineStep (i : Instr) (s : State) :
    exec i s = .next (engineStep (kernelResult i s) (commandMore i s.k) (commandBody i) s) := by
  cases i <;> rfl

/-- What a step of a running command can do: take its error entry, iterate on the kernel registers, or commit. -/
theorem exec_cases {i : Instr} {s t : State} (h : exec i s = .next t) :
    (∃ c, kernelResult i s = .error c ∧ t = raiseError c s) ∨
    (∃ ws, kernelResult i s = .ok ws ∧ commandMore i s.k = true ∧ t = { s with k := commandBody i s.k }) ∨
    (∃ ws, kernelResult i s = .ok ws ∧ commandMore i s.k = false ∧ t = commitOk ws s) := by
  rw [exec_eq_engineStep] at h
  cases h
  exact engineStep_cases _ _ _ _

/-! The engine's turn. -/

theorem engineTurn_idle {s : State} (h : s.phase = .idle) : engineTurn s = .next s := by
  simp [engineTurn, h]

theorem engineTurn_running {i : Instr} {s : State} (h : Running i s) : engineTurn s = exec i s := by
  simp [engineTurn, h.1, h.2]

theorem engineTurn_illegal {e : DecodeError} {s : State} (h : s.phase = .run) (hw : decodeWord s.w.cmd = .illegal e) :
    engineTurn s = .next (raiseError .illCmd s) := by
  simp [engineTurn, h, hw, commit]

/-- What the engine's turn can do. -/
theorem engineTurn_cases {s t : State} (h : engineTurn s = .next t) :
    (s.phase = .idle ∧ t = s) ∨
    (∃ i, Running i s ∧ exec i s = .next t) ∨
    (∃ e, s.phase = .run ∧ decodeWord s.w.cmd = .illegal e ∧ t = raiseError .illCmd s) := by
  cases hp : s.phase with
  | idle =>
    rw [engineTurn_idle hp] at h
    exact .inl ⟨rfl, by cases h; rfl⟩
  | run =>
    cases hd : decodeWord s.w.cmd with
    | ok i =>
      rw [engineTurn_running ⟨hp, hd⟩] at h
      exact .inr (.inl ⟨i, ⟨hp, hd⟩, h⟩)
    | illegal e =>
      rw [engineTurn_illegal hp hd] at h
      exact .inr (.inr ⟨e, rfl, rfl, by cases h; rfl⟩)

/-! A step of the machine. -/

theorem step_empty {s : State} (h : s.pending = []) : step s = engineTurn s := by
  simp [step, h]

theorem step_scheduled {a : Action} {rest : List Action} {s : State} (h : s.pending = a :: rest) :
    step s = perform a { s with pending := rest } := by
  simp [step, h]

/-- The machine never stops: every step answers a next state. -/
theorem step_answers (s : State) : ∃ t, step s = .next t := by
  have turn : ∀ u : State, ∃ t, engineTurn u = .next t := by
    intro u
    cases hp : u.phase with
    | idle => exact ⟨u, engineTurn_idle hp⟩
    | run =>
      cases hd : decodeWord u.w.cmd with
      | ok i => exact ⟨_, by rw [engineTurn_running ⟨hp, hd⟩]; exact exec_eq_engineStep i u⟩
      | illegal e => exact ⟨_, engineTurn_illegal hp hd⟩
  cases hs : s.pending with
  | nil => rw [step_empty hs]; exact turn s
  | cons a rest =>
    rw [step_scheduled hs]
    cases a with
    | bus t => exact ⟨_, rfl⟩
    | engine => exact turn _
    | reset => exact ⟨_, rfl⟩

/-! The host's transactions. -/

/-- What a legal write can do, by the register it falls on (20_memory.md R67). -/
theorem memWrite_cases (off : BitVec 7) (n : Size) (v : Word) (s : State) :
    memWrite off n v s = s ∨
    (∃ x, memWrite off n v s = { s with opa := x }) ∨
    (∃ x, memWrite off n v s = { s with opb := x }) ∨
    (∃ x, memWrite off n v s = { s with opm := x }) ∨
    (legalAccess off n = true ∧ (∃ k, regAt off.toNat = some (.cmd, k)) ∧ s.phase = .idle ∧
      memWrite off n v s = accept v s) ∨
    (legalAccess off n = true ∧ (∃ k, regAt off.toNat = some (.cmd, k)) ∧ s.phase = .run ∧
      memWrite off n v s = overrun s) ∨
    (legalAccess off n = true ∧ (∃ k, regAt off.toNat = some (.status, k)) ∧
      memWrite off n v s = writeStatus v s) ∨
    memWrite off n v s = writeCtrl v s := by
  unfold memWrite
  split
  · rename_i hl
    split
    · rename_i r k hr
      cases r
      case cmd =>
        cases hp : s.phase with
        | idle => simp [writeReg, writeCmd, hp, hl, hr]
        | run => simp [writeReg, writeCmd, hp, hl, hr]
      case status => simp [writeReg, hl, hr]
      case ctrl => simp [writeReg]
      case opa => exact .inr (.inl ⟨_, rfl⟩)
      case opb => exact .inr (.inr (.inl ⟨_, rfl⟩))
      case opm => exact .inr (.inr (.inr (.inl ⟨_, rfl⟩)))
      all_goals exact .inl rfl
    · exact .inl rfl
  · exact .inl rfl

/-- A transaction is the write's effect with the reply recorded. -/
theorem busStep_read (off : BitVec 7) (n : Size) (s : State) :
    busStep (.read off n) s = { s with reply := some (memRead off n s) } := rfl

theorem busStep_write (off : BitVec 7) (n : Size) (v : Word) (s : State) :
    busStep (.write off n v) s = { memWrite off n v s with reply := some (writeReply off n) } := rfl

/-- Every register the window shows is read from the fields named here, so two states that agree on them show the same
bytes. -/
theorem readByte_congr {s t : State} (off : Nat) (h : ∀ r, regValue r t = regValue r s) :
    readByte off t = readByte off s := by
  unfold readByte
  split <;> simp [h]

end Sys2Proof.Machine
end

