-- ==== Sys2Proof/Laws/Kernel.lean ====
section
/-! SUPPORT. What accept puts into the kernel registers, command by command (40_command_lifecycle.md R111), and what the
two datapaths do to the registers they do not use. -/

namespace Sys2Proof.Machine

variable {w : Snapshot} {k : Kernel} {src : OperandSource}

theorem kernelInit_iter (w : Snapshot) (k : Kernel) : (kernelInit w k).iter = 0 := by
  unfold kernelInit
  split
  · rfl
  · dsimp only; split <;> rfl
  · rfl
  · rfl
  · rfl
  · rfl
  · dsimp only; split <;> rfl
  · rfl

theorem kernelInit_nop (h : decodeWord w.cmd = .ok .nop) : kernelInit w k = { k with iter := 0 } := by
  simp [kernelInit, h]

theorem kernelInit_mulmod (h : decodeWord w.cmd = .ok (.mulmod src)) : kernelInit w k = { k with iter := 0 } := by
  simp [kernelInit, h]

theorem kernelInit_illegal {e : DecodeError} (h : decodeWord w.cmd = .illegal e) :
    kernelInit w k = { k with iter := 0 } := by
  simp [kernelInit, h]

theorem kernelInit_modexp (h : decodeWord w.cmd = .ok (.modexp src)) (hm : w.m ≠ 0) :
    kernelInit w k = powerInit w.a.toNat w.b w.m { k with iter := 0 } := by
  simp only [kernelInit, h, if_neg hm]

theorem kernelInit_fermat (h : decodeWord w.cmd = .ok (.fermat src)) (ha : w.a ≠ 0) :
    kernelInit w k = powerInit 2 (w.a - 1) w.a { k with iter := 0 } := by
  simp only [kernelInit, h, if_neg ha]

theorem kernelInit_gcd (h : decodeWord w.cmd = .ok (.gcd src)) :
    kernelInit w k = euclidInit w.a w.b { k with iter := 0 } := by
  simp [kernelInit, h]

theorem kernelInit_egcd (h : decodeWord w.cmd = .ok (.egcd src)) :
    kernelInit w k = euclidInit w.a w.b { k with iter := 0 } := by
  simp [kernelInit, h]

theorem kernelInit_modinv (h : decodeWord w.cmd = .ok (.modinv src)) :
    kernelInit w k = euclidInit w.a w.m { k with iter := 0 } := by
  simp [kernelInit, h]

/-- Where nothing is to be iterated, the power datapath has no bit left, and the other way round. -/
theorem powerMore_eq_false_iff (k : Kernel) : powerMore k = false ↔ k.i = 0 := by
  simp [powerMore]

theorem euclidMore_eq_false_iff (k : Kernel) : euclidMore k = false ↔ k.r1 = 0 := by
  simp [euclidMore]

end Sys2Proof.Machine
end

