-- ==== Sys2Proof/Laws/PerInstr.lean ====
section
/-! SUPPORT. The family `Encoding`: what holds of every command as a piece of text to be encoded. -/

namespace Sys2Proof.Laws

/-- The command is well formed, its word is legal, the decoder reads the command back from its word, from its bytes
and from the opcode table's form of it, and the word's reserved bits are 0 (30_encoding.md R90, R93 to R95). -/
def Encoding.Statement (i : Instr) : Prop :=
  i.wf = true ∧ legalWord (encode i) = true ∧ decodeWord (encode i) = .ok i ∧
  decode (bytesOfWord (encode i)) = .ok (i, []) ∧ decodeTableWord 32 (encode i).toNat = some i ∧
  (encode i).toNat < 32

theorem Encoding.nop : Encoding.Statement .nop := by
  unfold Encoding.Statement; decide

theorem Encoding.modexp (src : OperandSource) : Encoding.Statement (.modexp src) := by
  unfold Encoding.Statement; cases src <;> decide

theorem Encoding.mulmod (src : OperandSource) : Encoding.Statement (.mulmod src) := by
  unfold Encoding.Statement; cases src <;> decide

theorem Encoding.gcd (src : OperandSource) : Encoding.Statement (.gcd src) := by
  unfold Encoding.Statement; cases src <;> decide

theorem Encoding.egcd (src : OperandSource) : Encoding.Statement (.egcd src) := by
  unfold Encoding.Statement; cases src <;> decide

theorem Encoding.modinv (src : OperandSource) : Encoding.Statement (.modinv src) := by
  unfold Encoding.Statement; cases src <;> decide

theorem Encoding.fermat (src : OperandSource) : Encoding.Statement (.fermat src) := by
  unfold Encoding.Statement; cases src <;> decide

end Sys2Proof.Laws
end

