-- ==== Sys2Proof/Tests/Slice0.lean ====
section
/-! SUPPORT. Tests with expected results from the spec's vectors (95_test_vectors.md), one step each, the smoke test of
the well-formedness checks, and a witness for the hypotheses of every statement. -/

namespace Sys2Proof.Tests

open Sys2Proof Sys2Proof.Machine

/-! Well-formedness: each check refuses an ill-formed word, access or draw. -/

theorem test_illegal_reserved_bit_5 : reservedBitsClear 0x00000021#32 = false := by decide
theorem test_illegal_reserved_bit_31 : legalWord 0x80000000#32 = false := by decide
theorem test_illegal_opcode_7 : opcodeAssigned 0x00000007#32 = false := by decide
theorem test_illegal_opcode_15 : legalWord 0x0000000F#32 = false := by decide
theorem test_wellformed_every_command : (Instr.modexp .res).wf = true ∧ legalWord 0x00000011#32 = true := by decide
/-- W10, W9, W8, W6: size code 3, misaligned, reserved, sub-word on a control register. -/
theorem test_illegal_accesses :
    legalAccess 0x10 .illegal = false ∧ legalAccess 0x11 .b2 = false ∧ legalAccess 0x12 .b4 = false ∧
    legalAccess 0x28 .b4 = false ∧ legalAccess 0x2F .b1 = false ∧ legalAccess 0x78 .b4 = false ∧
    legalAccess 0x00 .b1 = false ∧ legalAccess 0x04 .b2 = false := by decide
theorem test_draw_out_of_range :
    (candidateRange {}).contains 3 = false ∧ (candidateRange {}).contains 4 = true ∧
    (exponentRange {}).contains 0 = true ∧ (exponentRange {}).contains 32 = false := by decide

/-! Decoding: each family's word written out bit by bit from 30_encoding.md R90 (bits 31:5, `AS`, `OPC`). -/

theorem test_decode_nop_r : decodeWord (0b000000000000000000000000000_1_0000#32) = .ok .nop := by decide
theorem test_decode_modexp_r : decodeWord (0b000000000000000000000000000_1_0001#32) = .ok (.modexp .res) := by decide
theorem test_decode_mulmod : decodeWord (0b000000000000000000000000000_0_0010#32) = .ok (.mulmod .opa) := by decide
theorem test_decode_gcd_r : decodeWord (0b000000000000000000000000000_1_0011#32) = .ok (.gcd .res) := by decide
theorem test_decode_egcd : decodeWord (0b000000000000000000000000000_0_0100#32) = .ok (.egcd .opa) := by decide
theorem test_decode_modinv_r : decodeWord (0b000000000000000000000000000_1_0101#32) = .ok (.modinv .res) := by decide
theorem test_decode_fermat : decodeWord (0b000000000000000000000000000_0_0110#32) = .ok (.fermat .opa) := by decide
/-- The word travels with `OPC` and `AS` in the byte at offset 3 (R90). -/
theorem test_decode_bytes : decode [0x00, 0x00, 0x00, 0x16] = .ok (.fermat .res, []) := by decide
theorem test_decode_too_few_bytes : decode [0x00, 0x00, 0x16] = .illegal .truncated := by decide
theorem test_table_word : decodeTableWord 32 0x12 = some (.mulmod .res) := by decide
theorem test_assemble : assemble "modinv.r" = some 0x15#32 ∧ assemble "modsqrt" = none := by decide

/-! One step of each command. -/

/-- Idle, with operands written. -/
def loaded (a b m res : Dword) : State := { State.reset with opa := a, opb := b, opm := m, res := res }

/-- The command of a word just accepted on operands. -/
def ready (v : Word) (a b m : Dword) : State := accept v (loaded a b m 0)

/-- The next state of an outcome (the machine has no other outcome, `step_answers`). -/
def after (o : Host.Outcome State Fault Refusal) : State :=
  match o with
  | .next s => s
  | .fault _ => State.reset
  | .refused _ => State.reset

/-- A1. -/
theorem test_nop_commits :
    statusWord (after (step (ready 0x00 0 0 0))) = 0x002#32 ∧ (after (step (ready 0x00 0 0 0))).iter = 0 := by decide

/-- T1, first row. -/
theorem test_modexp_iterates :
    (after (step (ready 0x01 65 17 3233))).k.r = 65 ∧ (after (step (ready 0x01 65 17 3233))).k.i = 4 ∧
    busy (after (step (ready 0x01 65 17 3233))) = true := by decide

/-- X4: `0^0 = 1`. -/
theorem test_modexp_zero_to_zero :
    (after (step (ready 0x01 0 0 5))).res = 1 ∧ statusWord (after (step (ready 0x01 0 0 5))) = 0x002#32 := by decide

/-- U7: the product `2^64` does not wrap to 0. -/
theorem test_mulmod_wide_product :
    (after (step (ready 0x02 0x8000000000000000 2 0xFFFFFFFFFFFFFFFF))).res = 1 := by decide

/-- U10. -/
theorem test_mulmod_modzero :
    statusWord (after (step (ready 0x02 10 10 0))) = 0x022#32 ∧ (after (step (ready 0x02 10 10 0))).res = 0 := by
  decide

/-- G9: gcd 1 and not coprime, because an operand is 0. -/
theorem test_gcd_zero_operand :
    (after (step (ready 0x03 1 0 0))).gcd = 1 ∧ statusWord (after (step (ready 0x03 1 0 0))) = 0x002#32 := by decide

/-- T5, first row. -/
theorem test_gcd_iterates :
    (after (step (ready 0x03 240 46 0))).k.r0 = 46 ∧ (after (step (ready 0x03 240 46 0))).k.r1 = 10 := by decide

/-- The kernel of T4 after its third row. -/
def afterThree : Kernel :=
  { Kernel.reset with r0 := 9, r1 := 8, s0 := BitVec.ofInt 65 (-183), s1 := 184, t0 := 1, t1 := BitVec.ofInt 65 (-1), iter := 3 }

/-- T4, fourth row. -/
theorem test_egcd_iterates :
    let k := (after (step { ready 0x04 17 3120 0 with k := afterThree })).k
    k.r0 = 8 ∧ k.r1 = 1 ∧ k.s0.toInt = 184 ∧ k.s1.toInt = -367 ∧ k.t0.toInt = -1 ∧ k.t1.toInt = 2 := by decide

/-- G6. -/
theorem test_egcd_both_zero :
    (after (step (ready 0x04 0 0 0))).gcd = 0 ∧ (after (step (ready 0x04 0 0 0))).ex = 1 ∧
    statusWord (after (step (ready 0x04 0 0 0))) = 0x002#32 := by decide

/-- The kernel of T4 at its exit. -/
def atExit : Kernel :=
  { Kernel.reset with r0 := 1, r1 := 0, s0 := BitVec.ofInt 65 (-367), s1 := 3120, t0 := 2, t1 := BitVec.ofInt 65 (-17), iter := 5 }

/-- I1: the negative coefficient is normalised, `XS` is set. -/
theorem test_modinv_commits :
    let s := after (step { ready 0x05 17 55 3120 with k := atExit })
    s.res = 2753 ∧ s.ex = 0xFFFFFFFFFFFFFE91 ∧ s.ey = 2 ∧ s.gcd = 1 ∧ s.iter = 5 ∧ statusWord s = 0x602#32 := by
  decide

/-- I12: no inverse, and no error. -/
theorem test_modinv_zero_modulus :
    (after (step (ready 0x05 7 55 0))).res = 0 ∧ (after (step (ready 0x05 7 55 0))).gcd = 7 ∧
    statusWord (after (step (ready 0x05 7 55 0))) = 0x002#32 := by decide

/-- F1. -/
theorem test_fermat_of_one :
    (after (step (ready 0x06 1 77 88))).res = 0 ∧ statusWord (after (step (ready 0x06 1 77 88))) = 0x002#32 := by decide

/-- F0. -/
theorem test_fermat_of_zero : statusWord (after (step (ready 0x06 0 77 88))) = 0x022#32 := by decide

/-- E4: an illegal word beats `MODZERO`. -/
theorem test_illegal_word :
    statusWord (after (step (ready 0x21 0 0 0))) = 0x012#32 ∧ (after (step (ready 0x21 0 0 0))).cmd = 0x21#32 := by
  decide

/-- A9: with `AS = 1` the snapshot takes the old `RES`. -/
theorem test_accept_takes_res :
    (accept 0x16 (loaded 5 0 0 61)).w.a = 61 ∧ (accept 0x06 (loaded 5 0 0 61)).w.a = 5 := by decide

/-! The window, overrun, acknowledge, reset. -/

/-- W3. -/
theorem test_byte_write :
    (busStep (.write 0x18 .b1 0x80) (busStep (.write 0x1E .b2 0xBEEF) State.reset)).opb = 0x800000000000BEEF := by
  decide

/-- W4, W11. -/
theorem test_reads :
    memRead 0x7C .b4 State.reset = .data 0x52414B07#32 ∧
    memRead 0x08 .b4 (busStep (.write 0x08 .b4 0xFFFFFFFF) State.reset) = .data 1#32 := by decide

/-- L3: a second command while busy is lost and sets `OVR`. -/
theorem test_overrun :
    statusWord (busStep (.write 0x00 .b4 0) (ready 0x01 3 4 7)) = 0x005#32 ∧
    (busStep (.write 0x00 .b4 0) (ready 0x01 3 4 7)).cmd = 1 := by decide

/-- W12. -/
theorem test_acknowledge :
    statusWord (busStep (.write 0x04 .b4 0xFFFFFFFF)
      { State.reset with done := true, ovr := true, coprime := true, xs := true }) = 0x600#32 := by decide

/-- Z1: reset discards a running command. -/
theorem test_reset_while_running :
    after (step { ready 0x06 61 0 0 with pending := [.reset] }) = State.reset := by decide

theorem test_fetch_word_runs :
    step (State.reset.withFetchWord 32 0x03) = exec (.gcd .opa) (State.reset.withFetchWord 32 0x03) := rfl

/-! The host's contracts. -/

/-- S2. -/
theorem test_pad : pad [1, 2, 3, 4] = [0, 0, 0, 0, 1, 2, 3, 4] ∧ unpad [0, 0, 0, 0, 1, 2, 3, 4] = [1, 2, 3, 4] := by decide

/-- S6: a length that is not a multiple of 4 is zero-extended first. -/
theorem test_pad_short : pad [0xAB] = [0, 0, 0, 0, 0xAB, 0, 0, 0] := by decide

/-- S4, item 3. -/
theorem test_blocks : bytesToBlocks [1, 2, 3] = [0x0102030000000000] := by decide

/-- K4: check 6 fails for `e = d`; P1's tuple is accepted. -/
theorem test_accept_checks :
    acceptChecks (keyPairState 5 7 5) = false ∧ (keyPairState 61 53 17).d = 2753 := by decide

/-- 30_encoding.md R98: `set64` is two word writes. -/
theorem test_set64 :
    set64 0x10 (.lit 16909060) =
      [.wr .b4 0x10 (.slice (.lit 16909060) 63 32), .wr .b4 0x14 (.slice (.lit 16909060) 31 0)] ∧
    hostStep { script := set64 0x10 (.lit 16909060), position := 1 } State.reset =
      .next { script := set64 0x10 (.lit 16909060), position := 2 }
        { State.reset with opa := 0x01020304, reply := some .ack } := ⟨rfl, rfl⟩

/-- P5, lines 17 and 18: the script goes on after a bus error, and the name read holds no value. -/
theorem test_script_goes_on_after_bus_error :
    hostStep { script := [.wr .b1 0x00 (.lit 1), .ret (.lit 0)] } State.reset =
      .next { script := [.wr .b1 0x00 (.lit 1), .ret (.lit 0)], position := 1 }
        { State.reset with reply := some .busError } ∧
    hostStep { script := [.rd .b4 0x28 { name := "x" }, .ret (hostVar "x")], vars := [({ name := "x" }, 7)] } State.reset =
      .next { script := [.rd .b4 0x28 { name := "x" }, .ret (hostVar "x")], position := 1 }
        { State.reset with reply := some .busError } := ⟨rfl, rfl⟩

/-- P2: 4, 9 and 15 are rejected, 61 passes; 3 is below the default range. -/
theorem test_generate_prime : generatePrime {} [3, 4, 9, 15, 61, 5] = some (61, [5]) := by decide

/-- P4's `phi` and `e`: 0 and 2 are not coprime to 24, and 37 is out of the default range. -/
theorem test_draw_exponent : drawExponent {} 24 [0, 2, 37, 5, 7] = some (5, [7]) := by decide

/-- 44_host_keygen.md R181: `FAIL` is left to, and is not the end of the script. -/
theorem test_goto_fail :
    HostState.goTo { script := generatePrimeScript {} } { name := "FAIL" } State.reset =
      .ended (.leftTo { name := "FAIL" }) := by decide

/-- 30_encoding.md R96, R98 and A2: `run nop.r` writes the word `0x10`. -/
theorem test_run_nop_r :
    runText "nop.r" 0 = some (.wr .b4 0x00 (.lit 16) :: wait 0) ∧ cmdText "modsqrt" = none := by decide

/-- P4, lines 13 and 14: `e = d = 5` passes checks 2 to 5 and fails check 6. -/
theorem test_compare_conditions :
    let h : HostState := { script := [], vars := [({ name := "e" }, 5), ({ name := "d" }, 5)] }
    HostCond.holds h (.or (.eq (hostVar "e") (.lit 0)) (.eq (hostVar "d") (.lit 1))) = some false ∧
    HostCond.holds h (.eq (hostVar "e") (hostVar "d")) = some true := by decide

/-- 45_host_block_pipeline.md R201: one block by bytes is 4 + 8 + 4 + 2 + 8 statements. S3: without blocks the script
has no statement. -/
theorem test_transform_script :
    (transformScript .bytes { exponent := 5, modulus := 7 } [3]).length = 26 ∧
    transformScript .bytes { exponent := 5, modulus := 7 } [] = [] := by decide

/-! Witnesses: for every statement with hypotheses, a state and operands that meet them together. -/

/-- A running `MODEXP` on 3, 4, 7. -/
def runningModexp : State := ready 0x01 3 4 7

/-- A running `GCD`, `EGCD`, `MODINV` on 17 and 3120, by the command word. -/
def runningEuclid (v : Word) : State := ready v 17 3120 3120

theorem powerInv_start : PowerInv 3 4 7 runningModexp.k := by constructor <;> decide

theorem powerInv_done : PowerInv 3 0 5 (ready 0x01 3 0 5).k := by constructor <;> decide

theorem powerInv_fermat_done : PowerInv 2 0 1 (ready 0x06 1 0 0).k := by constructor <;> decide

theorem euclidInv_start : EuclidInv 17 3120 (runningEuclid 0x05).k := by constructor <;> decide

theorem euclidInv_exit : EuclidInv 17 3120 atExit := by constructor <;> decide

theorem inv_runningModexp : Inv runningModexp :=
  ⟨fun _ => ⟨rfl, rfl, rfl, fun _ => powerInv_start⟩, by decide⟩

theorem inv_runningModinv : Inv (runningEuclid 0x05) :=
  ⟨fun _ => ⟨rfl, rfl, rfl, euclidInv_start⟩, by decide⟩

/-- `MODINV` at its exit. -/
def modinvAtExit : State := { runningEuclid 0x05 with k := atExit }

theorem inv_modinvAtExit : Inv modinvAtExit :=
  ⟨fun _ => ⟨rfl, rfl, rfl, euclidInv_exit⟩, by decide⟩

theorem witness_DecodeAndEncodeAreInverse :
    decodeWord 0x16#32 = .ok (.fermat .res) ∧ decodeWord 0x10#32 = .ok .nop := by decide

/-- Each clause on the kernel registers has its word. -/
theorem witness_CmdWriteWhileIdleAccepts :
    (loaded 3 4 7 5).phase = .idle ∧ (loaded 3 4 7 5).opm ≠ 0 ∧ firstOperand .res (loaded 3 4 7 5) ≠ 0 ∧
    decodeWord 0x01#32 = .ok (.modexp .opa) ∧ decodeWord 0x16#32 = .ok (.fermat .res) ∧
    decodeWord 0x13#32 = .ok (.gcd .res) ∧ decodeWord 0x04#32 = .ok (.egcd .opa) ∧
    decodeWord 0x15#32 = .ok (.modinv .res) := by decide

theorem witness_CmdWriteWhileRunningOverruns : runningModexp.phase = .run := rfl

theorem witness_StepRunsTheRunningCommand :
    Running (.modexp .opa) runningModexp ∧ runningModexp.pending = [] ∧
    Running (.modexp .opa) { runningModexp with pending := [.engine] } :=
  ⟨⟨rfl, rfl⟩, rfl, ⟨rfl, rfl⟩⟩

theorem witness_IdleEngineHasNoStep : State.reset.phase = .idle := rfl

theorem witness_NopOnlyCompletes : (0x10#32 : Word) = 0x00#32 ∨ (0x10#32 : Word) = 0x10#32 := by decide

theorem witness_MulmodCommitsTheExactRemainder : (ready 0x02 5 5 1).w.m ≠ 0 := by decide

theorem witness_ModexpCommitsThePower :
    (ready 0x01 3 0 5).w.m ≠ 0 ∧ (ready 0x01 3 0 5).k.i = 0 ∧ PowerInv 3 0 5 (ready 0x01 3 0 5).k :=
  ⟨by decide, by decide, powerInv_done⟩

theorem witness_FermatCommitsResidueAndVerdict :
    (ready 0x06 1 0 0).w.a ≠ 0 ∧ (ready 0x06 1 0 0).k.i = 0 ∧ PowerInv 2 0 1 (ready 0x06 1 0 0).k :=
  ⟨by decide, by decide, powerInv_fermat_done⟩

theorem witness_GcdCommitsDivisorAndVerdict :
    { runningEuclid 0x03 with k := atExit }.k.r1 = 0 ∧
    EuclidInv (runningEuclid 0x03).w.a.toNat (runningEuclid 0x03).w.b.toNat atExit :=
  ⟨rfl, euclidInv_exit⟩

theorem witness_EgcdCommitsTheBezoutTriple :
    { runningEuclid 0x04 with k := atExit }.k.r1 = 0 ∧
    EuclidInv (runningEuclid 0x04).w.a.toNat (runningEuclid 0x04).w.b.toNat atExit :=
  ⟨rfl, euclidInv_exit⟩

theorem witness_ModinvCommitsTheNormalisedCoefficient :
    modinvAtExit.k.r1 = 0 ∧ EuclidInv modinvAtExit.w.a.toNat modinvAtExit.w.m.toNat modinvAtExit.k :=
  ⟨rfl, euclidInv_exit⟩

/-- The two clauses: a modulus for `MODEXP`, a candidate for `FERMAT`. -/
theorem witness_PowerIterateConsumesOneBit :
    runningModexp.k.i ≠ 0 ∧ runningModexp.k.n ≠ 0 ∧ runningModexp.w.m ≠ 0 ∧
    (ready 0x06 61 0 0).k.i ≠ 0 ∧ (ready 0x06 61 0 0).k.n ≠ 0 ∧ (ready 0x06 61 0 0).w.a ≠ 0 := by decide

theorem witness_EuclidIterateDividesOnce :
    let k := afterThree
    let q : Int := (k.r0.toNat / k.r1.toNat : Nat)
    k.r1 ≠ 0 ∧ -(2 ^ 64) ≤ k.s0.toInt - q * k.s1.toInt ∧ k.s0.toInt - q * k.s1.toInt < 2 ^ 64 ∧
    -(2 ^ 64) ≤ k.t0.toInt - q * k.t1.toInt ∧ k.t0.toInt - q * k.t1.toInt < 2 ^ 64 := by decide

theorem witness_ErrorEntryWritesOnlyErrIterDonePhase :
    (ready 0x01 3 4 0).w.m = 0 ∧ (ready 0x06 0 4 7).w.a = 0 ∧ (ready 0x21 3 4 0).phase = .run ∧
    legalWord (ready 0x21 3 4 0).w.cmd = false := by decide

/-- One commit for each code: an illegal opcode, an illegal bit, each `MODZERO`, and none. -/
theorem witness_CommitErrorCodesAreExact :
    (after (engineTurn (ready 0x07 3 4 0))).phase = .idle ∧ (after (engineTurn (ready 0x20 3 4 0))).phase = .idle ∧
    (after (engineTurn (ready 0x11 3 4 0))).phase = .idle ∧ (after (engineTurn (ready 0x02 3 4 0))).phase = .idle ∧
    (after (engineTurn (ready 0x06 0 4 7))).phase = .idle ∧ (after (engineTurn (ready 0x00 3 4 0))).phase = .idle := by
  decide

theorem witness_CommandsWriteOnlyTheirDestinations :
    exec (.gcd .opa) (ready 0x03 5 0 0) = .next (after (exec (.gcd .opa) (ready 0x03 5 0 0))) := rfl

theorem witness_IterateChangesHiddenStateOnly :
    runningModexp.phase = .run ∧ exec (.modexp .opa) runningModexp = .next (after (exec (.modexp .opa) runningModexp)) ∧
    (after (exec (.modexp .opa) runningModexp)).phase = .run := ⟨rfl, rfl, by decide⟩

theorem witness_CommitWritesTheOutcomeOfTheSnapshot :
    Inv modinvAtExit ∧ modinvAtExit.phase = .run ∧ engineTurn modinvAtExit = .next (after (engineTurn modinvAtExit)) ∧
    (after (engineTurn modinvAtExit)).phase = .idle := ⟨inv_modinvAtExit, rfl, rfl, by decide⟩

theorem witness_MicroStepsEndInTheBigStep : (loaded 3 4 7 0).phase = .idle ∧ (loaded 3 4 7 0).pending = [] := ⟨rfl, rfl⟩

/-- A running command of the gcd family and one that is not. -/
theorem witness_EveryRunningCommandCommits :
    Inv (runningEuclid 0x05) ∧ (runningEuclid 0x05).phase = .run ∧ (runningEuclid 0x05).pending = [] ∧
    Inv runningModexp ∧ runningModexp.phase = .run ∧ runningModexp.pending = [] :=
  ⟨inv_runningModinv, rfl, rfl, inv_runningModexp, rfl, rfl⟩

theorem witness_EuclidIterationEqualsTheRecursion : Kernel.reset.iter = 0 := rfl

theorem witness_ModinvResultIsTheInverse :
    Inv modinvAtExit ∧ Running (.modinv .opa) modinvAtExit ∧
    exec (.modinv .opa) modinvAtExit = .next (after (exec (.modinv .opa) modinvAtExit)) ∧
    (after (exec (.modinv .opa) modinvAtExit)).phase = .idle ∧
    (after (exec (.modinv .opa) modinvAtExit)).coprime = true ∧ 2 ≤ modinvAtExit.w.m.toNat :=
  ⟨inv_modinvAtExit, ⟨rfl, rfl⟩, rfl, by decide, by decide, by decide⟩

theorem witness_CommittedResultsFitTheirBounds :
    Inv modinvAtExit ∧ Running (.modinv .opa) modinvAtExit ∧
    exec (.modinv .opa) modinvAtExit = .next (after (exec (.modinv .opa) modinvAtExit)) ∧
    (after (exec (.modinv .opa) modinvAtExit)).phase = .idle ∧
    (after (exec (.modinv .opa) modinvAtExit)).err = none :=
  ⟨inv_modinvAtExit, ⟨rfl, rfl⟩, rfl, by decide, by decide⟩

/-- A snapshot for each row. -/
theorem witness_ZeroOperandsGiveTheTabledResults :
    let w (a b m : Dword) : Snapshot := { cmd := 0, a := a, b := b, m := m }
    (w 3 4 0).m = 0 ∧ ((w 0 0 1).m ≠ 0 ∧ (w 0 0 1).b = 0) ∧ ((w 0 5 7).m ≠ 0 ∧ (w 0 5 7).a = 0 ∧ (w 0 5 7).b ≠ 0) ∧
    (w 1 4 5).a = 1 := by decide

theorem witness_FermatVerdictIsNotPrimality : 2 ≤ 2 ∧ 2 % 2 = 0 ∧ Nat.Prime 3 ∧ (3 : Nat) ≠ 2 :=
  ⟨le_rfl, rfl, Nat.prime_three, by decide⟩

theorem witness_EveryStepKeepsTheKernelInvariant :
    Inv runningModexp ∧ step runningModexp = .next (after (step runningModexp)) := ⟨inv_runningModexp, rfl⟩

theorem witness_BusyAndDoneAreNeverBothSet :
    (busy runningModexp && runningModexp.done) = false ∧ step runningModexp = .next (after (step runningModexp)) :=
  ⟨rfl, rfl⟩

theorem witness_ResetStepDiscardsARunningCommand :
    { runningModexp with pending := [.reset, .engine] }.pending = .reset :: [.engine] := rfl

/-- Both directions: an accept, a commit. -/
theorem witness_PhaseMovesOnlyAtAcceptCommitReset :
    (after (step { loaded 3 4 7 0 with pending := [.bus (.write 0x00 .b4 1)] })).phase = .run ∧
    (after (step (ready 0x00 3 4 7))).phase = .idle := by decide

/-- Both directions: the flag is set, and cleared. -/
theorem witness_OverrunFlagIsSticky :
    (after (step { runningModexp with pending := [.bus (.write 0x00 .b4 0)] })).ovr = true ∧ runningModexp.ovr = false ∧
    (after (step { runningModexp with ovr := true, pending := [.bus (.write 0x04 .b4 4)] })).ovr = false := by decide

theorem witness_ResultsChangeOnlyAtTheirCommitsOrReset :
    (∀ rest, modinvAtExit.pending ≠ .reset :: rest) ∧ step modinvAtExit = .next (after (step modinvAtExit)) ∧
    (after (step modinvAtExit)).res ≠ modinvAtExit.res ∧ (after (step modinvAtExit)).ex ≠ modinvAtExit.ex :=
  ⟨fun _ => by simp [modinvAtExit, runningEuclid, ready, loaded, State.reset], rfl, by decide, by decide⟩

theorem witness_BusAddressesMapToOffsets : Config.base - 1 < Config.base ∨ Config.base + 0x80 ≤ Config.base + 0x80 :=
  .inr le_rfl

/-- The first and the last offset of each range in the map that some access is legal on. -/
theorem witness_LegalAccessesAreThoseOfTheMap :
    legalAccess 0x0C .b4 = true ∧ legalAccess 0x0C .b2 = false ∧ legalAccess 0x10 .b1 = true ∧
    legalAccess 0x27 .b1 = true ∧ legalAccess 0x28 .b1 = false ∧ legalAccess 0x30 .b1 = true ∧
    legalAccess 0x4F .b1 = true ∧ legalAccess 0x50 .b1 = false ∧ legalAccess 0x7C .b4 = true := by decide

theorem witness_IllegalAccessChangesNothing : legalAccess 0x11 .b2 = false := by decide

theorem witness_ReadsAssembleBytesBigEndian : legalAccess 0x16 .b2 = true := by decide

theorem witness_RegisterBytesAreBigEndian : (7 : Nat) < 8 ∧ (3 : Nat) < 4 := by decide

/-- The two ends of the operand registers. -/
theorem witness_OperandWritesReplaceTheTouchedBytesOnly :
    (legalAccess 0x10 .b4 = true ∧ 0x10 ≤ (0x10 : BitVec 7).toNat ∧ (0x10 : BitVec 7).toNat < 0x28) ∧
    (legalAccess 0x27 .b1 = true ∧ 0x10 ≤ (0x27 : BitVec 7).toNat ∧ (0x27 : BitVec 7).toNat < 0x28) := by decide

/-- `ITER`, the first and the last result byte, `ID`. -/
theorem witness_ReadOnlyRegistersDiscardWrites :
    legalAccess 0x0C .b4 = true ∧ (legalAccess 0x30 .b1 = true ∧ 0x30 ≤ (0x30 : BitVec 7).toNat) ∧
    (legalAccess 0x4F .b1 = true ∧ 0x30 ≤ (0x4F : BitVec 7).toNat) ∧
    (legalAccess 0x7C .b4 = true ∧ 0x30 ≤ (0x7C : BitVec 7).toNat) := by decide

theorem witness_IrqFollowsDoneAndEnable :
    (ready 0x00 0 0 0).phase = .run ∧ engineTurn (ready 0x00 0 0 0) = .next (after (engineTurn (ready 0x00 0 0 0))) ∧
    (after (engineTurn (ready 0x00 0 0 0))).phase = .idle ∧ State.reset.phase = .idle := ⟨rfl, rfl, by decide, rfl⟩

theorem witness_HostCannotDisturbARunningCommand : runningModexp.phase = .run := rfl

theorem witness_ResultsDoNotDependOnHostTransactions :
    runningModexp.phase = .run ∧
    engineTurn ([Transaction.write 0x14 .b4 99].foldl (fun acc x => busStep x acc) runningModexp) =
      .next (after (engineTurn ([Transaction.write 0x14 .b4 99].foldl (fun acc x => busStep x acc) runningModexp))) ∧
    engineTurn runningModexp = .next (after (engineTurn runningModexp)) := ⟨rfl, rfl, rfl⟩

theorem witness_UnpadInvertsPad : ([1, 2, 3, 4] : List Byte).length % 4 = 0 := rfl

/-- The key `(5, 29)`, modulus 35, on a buffer of one block below it: `2^5 mod 35 = 32`, `32^29 mod 35 = 2`. -/
theorem witness_DecryptUndoesEncrypt :
    (35 : Dword) ≠ 0 ∧ ([0, 0, 0, 2] : List Byte).length % 4 = 0 ∧
    ∀ v ∈ bytesToBlocks (pad [0, 0, 0, 2]),
      v.toNat < (35 : Dword).toNat ∧
      (v.toNat ^ (5 : Dword).toNat % (35 : Dword).toNat) ^ (29 : Dword).toNat % (35 : Dword).toNat = v.toNat := by
  have blocks : bytesToBlocks (pad [0, 0, 0, 2]) = [2] := by decide
  rw [blocks]
  refine ⟨by decide, rfl, fun v hv => ?_⟩
  rw [List.mem_singleton.1 hv]
  refine ⟨by decide, ?_⟩
  show (2 ^ 5 % 35) ^ 29 % 35 = 2
  norm_num

theorem witness_CommandsCarryTheHostContracts :
    (loaded 3 4 7 0).phase = .idle ∧ (loaded 3 4 7 0).pending = [] ∧ (loaded 3 4 7 0).opa ≠ 0 ∧
    (loaded 3 4 7 0).opm ≠ 0 := ⟨rfl, rfl, by decide, by decide⟩

/-- K2: `p = q = 5`, `e = 23`, `d = 7`, accepted with the source's default. -/
theorem witness_AcceptedKeysMeetTheSevenChecks :
    buildKeyPair {} 1 [5, 5] [23] =
      some { publicKey := { exponent := 23, modulus := 25 }, privateKey := { exponent := 7, modulus := 25 } } ∧
    buildKeyPair { rejectEqualPrimes := true } 1 [5, 5] [23] = none := by decide

theorem witness_SearchesAnswerTheFirstDrawThatPasses :
    (generatePrime {} [4, 5]).isSome = true ∧ (drawExponent {} 24 [2, 5]).isSome = true := by decide

/-- A write and a read, each with a legal access and an illegal one. -/
theorem witness_HostStatementsMakeOneTransactionAndGoOn :
    [HostStmt.wr .b1 0x00 (.lit 1)][0]? = some (.wr .b1 0x00 (.lit 1)) ∧
    HostExpr.eval { script := [] } (.lit 1) = some 1 ∧
    [HostStmt.rd .b4 0x7C { name := "id" }][0]? = some (.rd .b4 0x7C { name := "id" }) ∧
    memRead 0x7C .b4 State.reset = .data 0x52414B07#32 ∧ legalAccess 0x28 .b4 = false ∧
    ({ name := "id" } : HostName) ≠ { name := "x" } := by decide

end Sys2Proof.Tests
end

section
/-! What a step of the machine can do, said once, and the statements about the state (10_state.md): the phase, the
status flags, the result registers, and what the host's transactions leave alone. -/

namespace Sys2Proof.Machine

variable {i : Instr} {s t : State} {ws : Writes}

/-! Which accesses reach a control register (20_memory.md R61, R65). -/

/-- The register map's lookup: the byte lies in the row of its register. -/
theorem regAt_some {off k : Nat} {r : Reg} (h : regAt off = some (r, k)) :
    ∃ row ∈ registerMap, row.reg = r ∧ off = row.offset + k ∧ k < r.bytes := by
  simp only [regAt] at h
  split at h
  · rename_i row found
    cases h
    have inRow := List.find?_some found
    simp only [Bool.and_eq_true, decide_eq_true_eq] at inRow
    exact ⟨row, List.mem_of_find?_eq_some found, rfl, by omega, by omega⟩
  · cases h

/-- Every control register of the map is aligned to its four bytes (20_memory.md R61). -/
theorem registerMap_control_aligned :
    ∀ row ∈ registerMap, row.reg.isControl = true → row.reg.bytes = 4 ∧ row.offset % 4 = 0 := by decide

/-- A legal access whose first byte is a control register's has four bytes and is aligned (20_memory.md R65). -/
theorem legalAccess_control {off : BitVec 7} {n : Size} (h : legalAccess off n = true)
    (control : controlByte off.toNat = true) : n = .b4 ∧ off.toNat % 4 = 0 := by
  have first : (touched off n).any controlByte = true :=
    List.any_eq_true.2 ⟨off.toNat, List.mem_map.2 ⟨0, by cases n <;> decide, rfl⟩, control⟩
  simp only [legalAccess, first, Bool.and_eq_true, beq_iff_eq, Bool.not_true, Bool.false_or] at h
  obtain ⟨⟨⟨⟨-, aligned⟩, -⟩, -⟩, four⟩ := h
  cases n <;> simp_all [Size.bytes]

/-- A legal access that begins in a control register covers that register exactly. -/
theorem legalAccess_control_row {off : BitVec 7} {n : Size} {r : Reg} {k : Nat} (h : legalAccess off n = true)
    (hr : regAt off.toNat = some (r, k)) (control : r.isControl = true) :
    n = .b4 ∧ ∃ row ∈ registerMap, row.reg = r ∧ off.toNat = row.offset := by
  obtain ⟨four, aligned⟩ := legalAccess_control h (by simp [controlByte, hr, control])
  obtain ⟨row, mem, rfl, place, inRow⟩ := regAt_some hr
  obtain ⟨bytes, rowAligned⟩ := registerMap_control_aligned row mem control
  exact ⟨four, row, mem, rfl, by omega⟩

theorem registerMap_cmd_offset : ∀ row ∈ registerMap, row.reg = .cmd → row.offset = 0x00 := by decide

theorem registerMap_status_offset : ∀ row ∈ registerMap, row.reg = .status → row.offset = 0x04 := by decide

/-- The only legal access that begins in `CMD` is the 4-byte one at its offset. -/
theorem legalAccess_cmd {off : BitVec 7} {n : Size} {k : Nat} (h : legalAccess off n = true)
    (hr : regAt off.toNat = some (.cmd, k)) : off = 0x00 ∧ n = .b4 := by
  obtain ⟨four, row, mem, isCmd, start⟩ := legalAccess_control_row h hr rfl
  exact ⟨BitVec.eq_of_toNat_eq (start.trans (registerMap_cmd_offset row mem isCmd)), four⟩

/-- The only legal access that begins in `STATUS` is the 4-byte one at its offset. -/
theorem legalAccess_status {off : BitVec 7} {n : Size} {k : Nat} (h : legalAccess off n = true)
    (hr : regAt off.toNat = some (.status, k)) : off = 0x04 ∧ n = .b4 := by
  obtain ⟨four, row, mem, isStatus, start⟩ := legalAccess_control_row h hr rfl
  exact ⟨BitVec.eq_of_toNat_eq (start.trans (registerMap_status_offset row mem isStatus)), four⟩

/-! What one step of each agent can do. -/

/-- What a host transaction can do: accept a word, overrun, acknowledge, or write nothing but operands, `CTRL.IE` and
the bus's answer. -/
theorem busStep_cases (tr : Transaction) (s : State) :
    (∃ v reply, tr = .write 0x00 .b4 v ∧ s.phase = .idle ∧ busStep tr s = { accept v s with reply := reply }) ∨
    (∃ v reply, tr = .write 0x00 .b4 v ∧ s.phase = .run ∧ busStep tr s = { overrun s with reply := reply }) ∨
    (∃ v reply, tr = .write 0x04 .b4 v ∧ busStep tr s = { writeStatus v s with reply := reply }) ∨
    (∃ opa opb opm ie reply,
      busStep tr s = { s with opa := opa, opb := opb, opm := opm, ie := ie, reply := reply }) := by
  cases tr with
  | read off n => exact .inr (.inr (.inr ⟨_, _, _, _, _, rfl⟩))
  | write off n v =>
    rw [busStep_write]
    obtain same | ⟨x, opa⟩ | ⟨x, opb⟩ | ⟨x, opm⟩ | ⟨legal, ⟨k, reg⟩, idle, eq⟩ | ⟨legal, ⟨k, reg⟩, run, eq⟩ |
      ⟨legal, ⟨k, reg⟩, eq⟩ | ctrl := memWrite_cases off n v s
    · rw [same]; exact .inr (.inr (.inr ⟨_, _, _, _, _, rfl⟩))
    · rw [opa]; exact .inr (.inr (.inr ⟨_, _, _, _, _, rfl⟩))
    · rw [opb]; exact .inr (.inr (.inr ⟨_, _, _, _, _, rfl⟩))
    · rw [opm]; exact .inr (.inr (.inr ⟨_, _, _, _, _, rfl⟩))
    · obtain ⟨rfl, rfl⟩ := legalAccess_cmd legal reg
      rw [eq]; exact .inl ⟨v, _, rfl, idle, rfl⟩
    · obtain ⟨rfl, rfl⟩ := legalAccess_cmd legal reg
      rw [eq]; exact .inr (.inl ⟨v, _, rfl, run, rfl⟩)
    · obtain ⟨rfl, rfl⟩ := legalAccess_status legal reg
      rw [eq]; exact .inr (.inr (.inl ⟨v, _, rfl, rfl⟩))
    · rw [ctrl]; exact .inr (.inr (.inr ⟨_, _, _, _, _, rfl⟩))

/-- What the engine's turn can do: nothing while idle; while a command runs, change the kernel registers alone, take
the error entry, or commit what the running command computes. -/
theorem engineTurn_effect (h : engineTurn s = .next t) :
    (s.phase = .idle ∧ t = s) ∨
    (∃ k, s.phase = .run ∧ t = { s with k := k }) ∨
    (∃ c, s.phase = .run ∧ t = raiseError c s) ∨
    (∃ i ws, Running i s ∧ kernelResult i s = .ok ws ∧ t = commitOk ws s) := by
  obtain idle | ⟨i, running, he⟩ | ⟨-, run, -, eq⟩ := engineTurn_cases h
  · exact .inl idle
  · obtain ⟨c, -, eq⟩ | ⟨ws, -, -, eq⟩ | ⟨ws, result, -, eq⟩ := exec_cases he
    · exact .inr (.inr (.inl ⟨c, running.1, eq⟩))
    · exact .inr (.inl ⟨_, running.1, eq⟩)
    · exact .inr (.inr (.inr ⟨i, ws, running, result, eq⟩))
  · exact .inr (.inr (.inl ⟨_, run, eq⟩))

/-- What a step of the machine can do: reset, the engine's turn (scheduled, or because nothing is), or a host
transaction. -/
theorem step_cases (h : step s = .next t) :
    (∃ rest, s.pending = .reset :: rest ∧ t = resetStep { s with pending := rest }) ∨
    (∃ rest, (s.pending = [] ∨ s.pending = .engine :: rest) ∧ engineTurn { s with pending := rest } = .next t) ∨
    (∃ tr rest, s.pending = .bus tr :: rest ∧ t = busStep tr { s with pending := rest }) := by
  cases hp : s.pending with
  | nil =>
    rw [step_empty hp] at h
    exact .inr (.inl ⟨[], .inl rfl, by rw [← hp]; exact h⟩)
  | cons a rest =>
    rw [step_scheduled hp] at h
    cases a with
    | reset => cases h; exact .inl ⟨rest, rfl, rfl⟩
    | engine => exact .inr (.inl ⟨rest, .inr rfl, h⟩)
    | bus tr => cases h; exact .inr (.inr ⟨tr, rest, rfl, rfl⟩)

/-! The phase and the status flags (10_state.md R30 to R32, R39). -/

theorem busy_and_done_eq_false_iff : (busy s && s.done) = false ↔ (s.phase = .run → s.done = false) := by
  simp [busy]

/-- Settles O33: a commit and reset leave the block idle, accept clears `DONE`, and no other step sets either. -/
theorem busyAndDoneAreNeverBothSet : Obligations.BusyAndDoneAreNeverBothSet := by
  intro s t before h
  rw [busy_and_done_eq_false_iff] at before ⊢
  obtain ⟨rest, -, rfl⟩ | ⟨rest, -, turn⟩ | ⟨tr, rest, -, rfl⟩ := step_cases h
  · nofun
  · obtain ⟨-, rfl⟩ | ⟨k, -, rfl⟩ | ⟨c, -, rfl⟩ | ⟨i, ws, -, -, rfl⟩ := engineTurn_effect turn
    · exact before
    · exact before
    · nofun
    · nofun
  · obtain ⟨v, reply, -, -, eq⟩ | ⟨v, reply, -, -, eq⟩ | ⟨v, reply, -, eq⟩ | ⟨opa, opb, opm, ie, reply, eq⟩ :=
      busStep_cases tr { s with pending := rest } <;> rw [eq]
    · exact fun _ => rfl
    · exact before
    · intro run
      simp [before run]
    · exact before

/-- Settles O36: of the steps `step_cases` lists, only accept leaves `IDLE`, and only commit and reset leave `RUN`. -/
theorem phaseMovesOnlyAtAcceptCommitReset : Obligations.PhaseMovesOnlyAtAcceptCommitReset := by
  intro s t h
  obtain ⟨rest, scheduled, rfl⟩ | ⟨rest, scheduled, turn⟩ | ⟨tr, rest, scheduled, rfl⟩ := step_cases h
  · exact ⟨fun _ => nofun, fun _ _ => .inl ⟨rest, scheduled⟩⟩
  · have engine : s.pending = [] ∨ ∃ rest, s.pending = .engine :: rest := scheduled.imp_right fun e => ⟨rest, e⟩
    obtain ⟨-, rfl⟩ | ⟨k, -, rfl⟩ | ⟨c, -, rfl⟩ | ⟨i, ws, -, -, rfl⟩ := engineTurn_effect turn
    · simp +contextual
    · simp +contextual
    · exact ⟨fun _ => nofun, fun _ _ => .inr ⟨engine, rfl⟩⟩
    · exact ⟨fun _ => nofun, fun _ _ => .inr ⟨engine, rfl⟩⟩
  · obtain ⟨v, reply, rfl, idle, eq⟩ | ⟨v, reply, -, run, eq⟩ | ⟨v, reply, -, eq⟩ | ⟨opa, opb, opm, ie, reply, eq⟩ :=
      busStep_cases tr { s with pending := rest } <;> rw [eq]
    · exact ⟨fun _ _ => ⟨v, rest, scheduled, rfl, rfl⟩, fun _ => nofun⟩
    all_goals simp +contextual

/-- Settles O37: reset and the acknowledge are the only steps of `step_cases` that clear `OVR`, overrun the only one
that sets it. -/
theorem overrunFlagIsSticky : Obligations.OverrunFlagIsSticky := by
  intro s t h
  obtain ⟨rest, scheduled, rfl⟩ | ⟨rest, -, turn⟩ | ⟨tr, rest, scheduled, rfl⟩ := step_cases h
  · exact ⟨fun _ _ => .inl ⟨rest, scheduled⟩, fun _ => nofun⟩
  · have same : t.ovr = s.ovr := by
      obtain ⟨-, rfl⟩ | ⟨k, -, rfl⟩ | ⟨c, -, rfl⟩ | ⟨i, ws, -, -, rfl⟩ := engineTurn_effect turn <;> rfl
    simp +contextual [same]
  · obtain ⟨v, reply, -, -, eq⟩ | ⟨v, reply, rfl, run, eq⟩ | ⟨v, reply, rfl, eq⟩ | ⟨opa, opb, opm, ie, reply, eq⟩ :=
      busStep_cases tr { s with pending := rest } <;> rw [eq]
    · simp +contextual
    · exact ⟨fun _ => nofun, fun _ _ => ⟨run, v, rest, scheduled⟩⟩
    · refine ⟨fun set cleared => .inr ⟨v, rest, scheduled, ?_⟩, fun clear set => ?_⟩
      · have bit : v.getLsbD 2 = true := by simpa [set] using cleared
        simpa [BitVec.getLsbD, Nat.testBit_eq_decide_div_mod_eq] using bit
      · simp [clear] at set
    · simp +contextual

/-! The result registers (10_state.md R24 to R27, R34, R35, R37, R41). -/

/-- The values of the result registers and result flags. -/
structure Results where
  res : Dword
  gcd : Dword
  ex : Dword
  ey : Dword
  prime : Bool
  coprime : Bool
  xs : Bool
  ys : Bool

/-- The result registers and result flags of a state. -/
def State.results (s : State) : Results :=
  { res := s.res, gcd := s.gcd, ex := s.ex, ey := s.ey, prime := s.prime, coprime := s.coprime, xs := s.xs, ys := s.ys }

/-- No transaction of the host writes a result register, a result flag or `ITER`. -/
theorem busStep_keeps_results (tr : Transaction) (s : State) :
    (busStep tr s).results = s.results ∧ (busStep tr s).iter = s.iter := by
  obtain ⟨v, reply, -, -, eq⟩ | ⟨v, reply, -, -, eq⟩ | ⟨v, reply, -, eq⟩ | ⟨opa, opb, opm, ie, reply, eq⟩ :=
    busStep_cases tr s <;> rw [eq] <;> exact ⟨rfl, rfl⟩

/-- What a command would commit reads the snapshot and the kernel registers alone. -/
theorem kernelResult_congr (i : Instr) (w : t.w = s.w) (k : t.k = s.k) : kernelResult i t = kernelResult i s := by
  cases i <;> simp [kernelResult, modexpResult, mulmodResult, gcdResult, egcdResult, modinvResult, fermatResult, w, k]

/-- Which commands name `RES` in what they commit. -/
theorem kernelResult_res (h : kernelResult i s = .ok ws) :
    ws.res = none ∨ ∃ src, i = .modexp src ∨ i = .mulmod src ∨ i = .modinv src ∨ i = .fermat src := by
  cases i with
  | nop | gcd | egcd => cases h; exact .inl rfl
  | modexp src | mulmod src | modinv src | fermat src => exact .inr ⟨src, by simp⟩

/-- `MODEXP`, `MULMOD` and `FERMAT` name no more than `RES` and `PRIME`. -/
theorem kernelResult_power {src : OperandSource} (power : i = .modexp src ∨ i = .mulmod src ∨ i = .fermat src)
    (h : kernelResult i s = .ok ws) : ∃ res prime n, ws = { res := res, prime := prime, n := n } := by
  obtain rfl | rfl | rfl := power <;>
    simp only [kernelResult, modexpResult, mulmodResult, fermatResult] at h <;>
    split at h <;> cases h <;> exact ⟨_, _, _, rfl⟩

/-- Which commands name `GCD` or `COPRIME`. -/
theorem kernelResult_gcd (h : kernelResult i s = .ok ws) :
    (ws.gcd = none ∧ ws.coprime = none) ∨ ∃ src, i = .gcd src ∨ i = .egcd src ∨ i = .modinv src := by
  cases i with
  | nop => cases h; exact .inl ⟨rfl, rfl⟩
  | modexp src | mulmod src | fermat src =>
    obtain ⟨res, prime, n, rfl⟩ := kernelResult_power (src := src) (by simp) h
    exact .inl ⟨rfl, rfl⟩
  | gcd src | egcd src | modinv src => exact .inr ⟨src, by simp⟩

/-- Which commands name the coefficients. -/
theorem kernelResult_coefficients (h : kernelResult i s = .ok ws) :
    (ws.x = none ∧ ws.y = none) ∨ ∃ src, i = .egcd src ∨ i = .modinv src := by
  cases i with
  | nop | gcd => cases h; exact .inl ⟨rfl, rfl⟩
  | modexp src | mulmod src | fermat src =>
    obtain ⟨res, prime, n, rfl⟩ := kernelResult_power (src := src) (by simp) h
    exact .inl ⟨rfl, rfl⟩
  | egcd src | modinv src => exact .inr ⟨src, by simp⟩

/-- Which command names `PRIME`. -/
theorem kernelResult_prime (h : kernelResult i s = .ok ws) : ws.prime = none ∨ ∃ src, i = .fermat src := by
  cases i with
  | nop | gcd | egcd | modinv => cases h; exact .inl rfl
  | modexp | mulmod =>
    simp only [kernelResult, modexpResult, mulmodResult] at h
    split at h <;> cases h
    exact .inl rfl
  | fermat src => exact .inr ⟨src, rfl⟩

/-- A step other than reset keeps the results and `ITER`, or ends a command in an error that keeps the results, or is
the commit of the running command. -/
theorem step_results (h : step s = .next t) (noReset : ∀ rest, s.pending ≠ .reset :: rest) :
    (t.results = s.results ∧ (t.iter ≠ s.iter → s.phase = .run ∧ t.phase = .idle)) ∨
    (∃ i ws rest, Running i s ∧ kernelResult i s = .ok ws ∧ t = commitOk ws { s with pending := rest }) := by
  obtain ⟨rest, scheduled, -⟩ | ⟨rest, -, turn⟩ | ⟨tr, rest, -, rfl⟩ := step_cases h
  · exact absurd scheduled (noReset rest)
  · obtain ⟨-, rfl⟩ | ⟨k, -, rfl⟩ | ⟨c, run, rfl⟩ | ⟨i, ws, running, result, rfl⟩ := engineTurn_effect turn
    · exact .inl ⟨rfl, fun ne => absurd rfl ne⟩
    · exact .inl ⟨rfl, fun ne => absurd rfl ne⟩
    · exact .inl ⟨rfl, fun _ => ⟨run, rfl⟩⟩
    · exact .inr ⟨i, ws, rest, running, (kernelResult_congr i rfl rfl).trans result, rfl⟩
  · obtain ⟨same, iter⟩ := busStep_keeps_results tr { s with pending := rest }
    exact .inl ⟨same, fun ne => absurd iter ne⟩

/-- Settles O38: by `step_results`, what changes is what the committed command names. -/
theorem resultsChangeOnlyAtTheirCommitsOrReset : Obligations.ResultsChangeOnlyAtTheirCommitsOrReset := by
  intro s t h noReset
  obtain ⟨same, iter⟩ | ⟨i, ws, rest, running, result, rfl⟩ := step_results h noReset
  · refine ⟨iter, ?_⟩
    simp only [State.results, Results.mk.injEq] at same
    simp [same]
  · refine ⟨fun _ => ⟨running.1, rfl⟩, fun ne => ⟨rfl, rfl, ?_⟩, fun ne => ⟨rfl, rfl, ?_⟩, fun ne => ⟨rfl, rfl, ?_⟩,
      fun ne => ⟨rfl, rfl, ?_⟩⟩
    · obtain keeps | ⟨src, rfl | rfl | rfl | rfl⟩ := kernelResult_res result
      · simp [keeps] at ne
      all_goals exact ⟨src, by simp [running]⟩
    · obtain ⟨keepsG, keepsC⟩ | ⟨src, rfl | rfl | rfl⟩ := kernelResult_gcd result
      · simp [keepsG, keepsC] at ne
      all_goals exact ⟨src, by simp [running]⟩
    · obtain ⟨keepsX, keepsY⟩ | ⟨src, rfl | rfl⟩ := kernelResult_coefficients result
      · simp [keepsX, keepsY] at ne
      all_goals exact ⟨src, by simp [running]⟩
    · obtain keeps | ⟨src, rfl⟩ := kernelResult_prime result
      · simp [keeps] at ne
      · exact ⟨src, running⟩

/-! The host and a running command (10_state.md R40, 40_command_lifecycle.md R115). -/

/-- The state without what the host's transactions can reach while a command runs: the operand registers, `DONE`,
`OVR`, `IE` and the bus's answer. Two states that agree on it differ in no result, no status of the command and no
hidden state. -/
def hideHost (s : State) : State :=
  { s with opa := 0, opb := 0, opm := 0, done := false, ovr := false, ie := false, reply := none }

/-- What states keep that agree on what the host cannot reach. -/
theorem fields_of_hideHost_eq (h : hideHost t = hideHost s) :
    t.phase = s.phase ∧ t.w = s.w ∧ t.k = s.k ∧ t.cmd = s.cmd ∧ t.res = s.res ∧ t.gcd = s.gcd ∧ t.ex = s.ex ∧
      t.ey = s.ey ∧ t.iter = s.iter ∧ t.err = s.err ∧ t.prime = s.prime ∧ t.coprime = s.coprime ∧ t.xs = s.xs ∧
      t.ys = s.ys := by
  simp only [hideHost, State.mk.injEq] at h
  simp [h]

/-- While a command runs, a transaction reaches only what `hideHost` hides. -/
theorem hideHost_busStep (tr : Transaction) (run : s.phase = .run) : hideHost (busStep tr s) = hideHost s := by
  obtain ⟨v, reply, -, idle, -⟩ | ⟨v, reply, -, -, eq⟩ | ⟨v, reply, -, eq⟩ | ⟨opa, opb, opm, ie, reply, eq⟩ :=
    busStep_cases tr s
  · cases run.symm.trans idle
  all_goals rw [eq]; rfl

/-- The same for any list of transactions. -/
theorem hideHost_busSteps (trs : List Transaction) (run : s.phase = .run) :
    hideHost (trs.foldl (fun acc x => busStep x acc) s) = hideHost s := by
  induction trs generalizing s with
  | nil => rfl
  | cons tr trs ih =>
    have first := hideHost_busStep tr run
    obtain ⟨phase, -⟩ := fields_of_hideHost_eq first
    exact (ih (phase.trans run)).trans first

/-- The engine's step reads nothing the host can reach. -/
theorem hideHost_engineStep (r : CommandResult) (more : Bool) (body : Kernel → Kernel) (s : State) :
    hideHost (engineStep r more body (hideHost s)) = hideHost (engineStep r more body s) := by
  cases r with
  | error c => rfl
  | ok ws => cases more <;> rfl

/-- The engine's turn on a running command does the same, up to what is hidden, where that is hidden before. -/
theorem engineTurn_hideHost (run : s.phase = .run) (h : engineTurn s = .next t) :
    ∃ u, engineTurn (hideHost s) = .next u ∧ hideHost u = hideHost t := by
  cases hd : decodeWord s.w.cmd with
  | ok i =>
    have running : Running i s := ⟨run, hd⟩
    have running' : Running i (hideHost s) := ⟨run, hd⟩
    rw [engineTurn_running running, exec_eq_engineStep] at h
    cases h
    rw [engineTurn_running running', exec_eq_engineStep,
      kernelResult_congr (s := s) (t := hideHost s) i rfl rfl]
    exact ⟨_, rfl, hideHost_engineStep _ _ _ s⟩
  | illegal e =>
    rw [engineTurn_illegal run hd] at h
    cases h
    exact ⟨_, engineTurn_illegal (s := hideHost s) run hd, rfl⟩

/-- Settles O49: every field named is one `hideHost` keeps. -/
theorem hostCannotDisturbARunningCommand : Obligations.HostCannotDisturbARunningCommand := by
  intro tr s run
  obtain ⟨phase, rest⟩ := fields_of_hideHost_eq (hideHost_busStep tr run)
  exact ⟨phase.trans run, rest⟩

/-- Settles O50: both turns are the turn on the state with the host's reach hidden, which the transactions keep. -/
theorem resultsDoNotDependOnHostTransactions : Obligations.ResultsDoNotDependOnHostTransactions := by
  intro s t u trs run afterHost alone
  have start := hideHost_busSteps trs run
  obtain ⟨stillRuns, -⟩ := fields_of_hideHost_eq start
  obtain ⟨t', turn, eqT⟩ := engineTurn_hideHost (stillRuns.trans run) afterHost
  obtain ⟨u', turn', eqU⟩ := engineTurn_hideHost run alone
  rw [start, turn'] at turn
  cases turn
  obtain ⟨phase, w, k, -, results⟩ := fields_of_hideHost_eq (eqT.symm.trans eqU)
  exact ⟨phase, w, k, results⟩

/-! The idle engine and reset (10_state.md R39, R44). -/

/-- Settles O7: after reset the block is idle, and an idle engine's turn changes nothing. -/
theorem idleEngineHasNoStep : Obligations.IdleEngineHasNoStep :=
  ⟨fun _ => engineTurn_idle, (step_empty rfl).trans (engineTurn_idle rfl)⟩

/-- Settles O32: after reset nothing runs, and `ITER` is 0. -/
theorem resetMeetsTheKernelInvariant : Obligations.ResetMeetsTheKernelInvariant where
  run := nofun
  iterBound := Nat.zero_le _

/-! The words of the control registers (10_state.md R29, R38). -/

/-- A 4-byte value assembled from the bytes of a word, most significant first, is the word (20_memory.md R63, R64). -/
theorem assemble_wordBytes (w : Word) :
    (List.range 4).foldl (fun (acc : Word) j => (acc <<< 8) ||| (byteOf (w.setWidth 64) 4 j).setWidth 32) 0 = w := by
  apply BitVec.eq_of_getLsbD_eq
  intro i hi
  simp only [byteOf, List.range_succ, List.range_zero, List.nil_append, List.cons_append, List.foldl_cons,
    List.foldl_nil, BitVec.getLsbD_or, BitVec.getLsbD_shiftLeft, BitVec.getLsbD_setWidth, BitVec.getLsbD_extractLsb']
  grind

/-! A 4-byte read of a control register answers its word: the access is legal, and the bytes it touches are the word's,
both by evaluation. -/

theorem memRead_status (s : State) : memRead 0x04 .b4 s = .data (statusWord s) :=
  congrArg Reply.data (assemble_wordBytes (statusWord s))

theorem memRead_ctrl (s : State) : memRead 0x08 .b4 s = .data (ctrlWord s) :=
  congrArg Reply.data (assemble_wordBytes (ctrlWord s))

theorem memRead_id (s : State) : memRead 0x7C .b4 s = .data Config.idValue :=
  congrArg Reply.data (assemble_wordBytes Config.idValue)

/-- Fields put side by side are a sum of their values, each at its weight. -/
theorem toNat_append_eq_add {m n : Nat} (x : BitVec m) (y : BitVec n) :
    (x ++ y).toNat = 2 ^ n * x.toNat + y.toNat := by
  rw [BitVec.toNat_append, Nat.shiftLeft_eq, Nat.mul_comm, Nat.two_pow_add_eq_or_of_lt y.isLt]

theorem toNat_busy (s : State) : (busy s).toNat = if s.phase = .run then 1 else 0 := by
  cases h : s.phase <;> simp [busy, h]

/-- The number `STATUS` reads as (10_state.md R29). -/
theorem toNat_statusWord (s : State) :
    (statusWord s).toNat =
      (if s.phase = .run then 1 else 0) + 2 * s.done.toNat + 4 * s.ovr.toNat + 16 * (errCode s.err).toNat
        + 256 * s.prime.toNat + 512 * s.coprime.toNat + 1024 * s.xs.toNat + 2048 * s.ys.toNat := by
  simp only [statusWord, toNat_append_eq_add, BitVec.toNat_ofBool, toNat_busy, BitVec.toNat_ofNat]
  omega

/-- The number `CTRL` reads as (10_state.md R38). -/
theorem toNat_ctrlWord (s : State) : (ctrlWord s).toNat = s.ie.toNat := by
  simp only [ctrlWord, toNat_append_eq_add, BitVec.toNat_ofBool, BitVec.toNat_ofNat]
  omega

/-- Settles O47: a read answers the word, and the word is the sum of its fields. -/
theorem statusWordHasTheTabledLayout : Obligations.StatusWordHasTheTabledLayout := by
  intro s
  rw [memRead_status, memRead_ctrl, ← toNat_statusWord, ← toNat_ctrlWord, BitVec.ofNat_toNat, BitVec.ofNat_toNat,
    BitVec.setWidth_eq, BitVec.setWidth_eq]
  exact ⟨rfl, rfl⟩

/-- Settles O34: the registers by the definition of the state after reset, `ID` by the read of its word. -/
theorem resetLeavesTheStatedValues : Obligations.ResetLeavesTheStatedValues := by
  have status : statusWord State.reset = 0 := by decide
  have ctrl : ctrlWord State.reset = 0 := by decide
  exact ⟨rfl, rfl, rfl, rfl, rfl, rfl, rfl, rfl, status, ctrl, rfl, rfl, rfl, memRead_id _⟩

end Sys2Proof.Machine
end

section
/-! The window (20_memory.md): the register map by its rows, the legal accesses, the bytes a read assembles and the
bytes a write replaces. -/

namespace Sys2Proof.Machine

variable {off : BitVec 7} {n : Size} {r : Reg} {k : Nat}

/-! The register map (20_memory.md R61, R62). -/

/-- The lookup finds every byte of every row: no earlier row covers it. -/
theorem regAt_row : ∀ row ∈ registerMap, ∀ k < row.reg.bytes, regAt (row.offset + k) = some (row.reg, k) := by decide

/-- The lookup at a later byte of the same register. -/
theorem regAt_add {o j : Nat} (h : regAt o = some (r, k)) (inReg : k + j < r.bytes) :
    regAt (o + j) = some (r, k + j) := by
  obtain ⟨row, mem, rfl, rfl, -⟩ := regAt_some h
  rw [Nat.add_assoc]
  exact regAt_row row mem (k + j) inReg

/-- A byte is mapped where a row covers it. -/
theorem mapped_iff_row (o : Nat) :
    mapped o = true ↔ ∃ row ∈ registerMap, row.offset ≤ o ∧ o < row.offset + row.reg.bytes := by
  constructor
  · intro h
    obtain ⟨⟨r, k⟩, lookup⟩ := Option.isSome_iff_exists.1 h
    obtain ⟨row, mem, rfl, rfl, inRow⟩ := regAt_some lookup
    exact ⟨row, mem, by omega, by omega⟩
  · rintro ⟨row, mem, low, high⟩
    obtain ⟨k, rfl⟩ := Nat.exists_eq_add_of_le low
    simp [mapped, regAt_row row mem k (by omega)]

/-- A byte is a control register's where such a row covers it. -/
theorem controlByte_iff_row (o : Nat) :
    controlByte o = true ↔
      ∃ row ∈ registerMap, row.reg.isControl = true ∧ row.offset ≤ o ∧ o < row.offset + row.reg.bytes := by
  constructor
  · intro h
    cases lookup : regAt o with
    | none => simp [controlByte, lookup] at h
    | some place =>
      obtain ⟨row, mem, isReg, rfl, inRow⟩ := regAt_some lookup
      exact ⟨row, mem, by simpa [controlByte, lookup, isReg] using h, by omega, by rw [isReg]; omega⟩
  · rintro ⟨row, mem, control, low, high⟩
    obtain ⟨k, rfl⟩ := Nat.exists_eq_add_of_le low
    simpa [controlByte, regAt_row row mem k (by omega)] using control

/-- The mapped bytes in numbers: all but the three reserved ranges (20_memory.md R62). -/
theorem mapped_iff (o : Nat) : mapped o = true ↔ o < 0x28 ∨ (0x30 ≤ o ∧ o < 0x50) ∨ (0x7C ≤ o ∧ o < 0x80) := by
  rw [mapped_iff_row]
  simp only [registerMap, List.exists_mem_cons_iff, List.not_mem_nil, false_and, exists_false, or_false, Reg.bytes,
    Reg.isControl, if_true, Bool.false_eq_true, if_false]
  omega

/-- The bytes of control registers in numbers. -/
theorem controlByte_iff (o : Nat) : controlByte o = true ↔ o < 0x10 ∨ (0x7C ≤ o ∧ o < 0x80) := by
  rw [controlByte_iff_row]
  simp only [registerMap, List.exists_mem_cons_iff, List.not_mem_nil, false_and, true_and, exists_false, false_or,
    or_false, Reg.bytes, Reg.isControl, if_true, Bool.false_eq_true, if_false]
  omega

/-! The legal accesses (20_memory.md R65). -/

/-- An aligned access of 1, 2 or 4 bytes stays within one aligned group of four bytes. -/
theorem aligned_same_word {o j : Nat} (size : n ≠ .illegal) (aligned : o % n.bytes = 0) (hj : j < n.bytes) :
    (o + j) / 4 = o / 4 := by
  cases n with
  | illegal => exact absurd rfl size
  | b1 | b2 | b4 => simp only [Size.bytes] at aligned hj; omega

/-- Whether a byte is mapped is settled by the group of four it lies in. -/
theorem mapped_of_same_word {o p : Nat} (same : p / 4 = o / 4) (h : mapped o = true) : mapped p = true := by
  rw [mapped_iff] at h ⊢
  omega

/-- Whether a byte is a control register's is settled by the group of four it lies in. -/
theorem controlByte_of_same_word {o p : Nat} (same : p / 4 = o / 4) (h : controlByte p = true) :
    controlByte o = true := by
  rw [controlByte_iff] at h ⊢
  omega

theorem Size.bytes_pos (n : Size) : 0 < n.bytes := by cases n <;> decide

/-- The five conditions of the rule, read on the first byte: its size and alignment bind the other bytes to it. -/
theorem legalAccess_iff (off : BitVec 7) (n : Size) :
    legalAccess off n = true ↔
      n ≠ .illegal ∧ off.toNat % n.bytes = 0 ∧ mapped off.toNat = true ∧
      (controlByte off.toNat = true → n = .b4) := by
  have size : (n.bytes == 1 || n.bytes == 2 || n.bytes == 4) = true ↔ n ≠ .illegal := by cases n <;> decide
  have four : n.bytes = 4 ↔ n = .b4 := by cases n <;> decide
  simp only [legalAccess, Bool.and_eq_true, size, Bool.or_eq_true, beq_iff_eq, four, decide_eq_true_eq, touched,
    List.all_map, List.any_map, Function.comp_def, List.all_eq_true, List.mem_range, Bool.not_eq_true', List.any_eq_false,
    and_assoc]
  constructor
  · rintro ⟨size, aligned, -, allMapped, control⟩
    exact ⟨size, aligned, allMapped 0 n.bytes_pos, fun first => control.resolve_left fun no => no 0 n.bytes_pos first⟩
  · rintro ⟨size, aligned, firstMapped, control⟩
    have sameWord := fun j (hj : j < n.bytes) => aligned_same_word size aligned hj
    have allMapped := fun j hj => mapped_of_same_word (sameWord j hj) firstMapped
    refine ⟨size, aligned, ?_, allMapped, ?_⟩
    · have last := allMapped (n.bytes - 1) (Nat.sub_lt n.bytes_pos one_pos)
      rw [mapped_iff] at last
      have := n.bytes_pos
      show _ ≤ 128
      omega
    · by_cases first : controlByte off.toNat = true
      · exact .inr (control first)
      · exact .inl fun j hj other => first (controlByte_of_same_word (sameWord j hj) other)

/-- Settles O40: the mapped and the control bytes in numbers, on the access's first byte. -/
theorem legalAccessesAreThoseOfTheMap : Obligations.LegalAccessesAreThoseOfTheMap := by
  intro off n
  rw [legalAccess_iff, mapped_iff, controlByte_iff]
  refine and_congr_right fun _ => and_congr_right fun aligned => ?_
  by_cases four : n = .b4
  · subst four
    simp only [Size.bytes, implies_true, and_true] at aligned ⊢
    omega
  · simp only [four, imp_false, and_false, or_false, false_or]
    omega

/-- Every row is aligned to four bytes and a multiple of four bytes long. -/
theorem registerMap_aligned : ∀ row ∈ registerMap, row.offset % 4 = 0 ∧ row.reg.bytes % 4 = 0 := by decide

/-- A legal access lies within one register: from the byte `k` where it begins, all its bytes are that register's. -/
theorem legalAccess_within (h : legalAccess off n = true) :
    ∃ r k, k + n.bytes ≤ r.bytes ∧ ∀ j < n.bytes, regAt (off.toNat + j) = some (r, k + j) := by
  obtain ⟨size, aligned, firstMapped, -⟩ := (legalAccess_iff off n).1 h
  obtain ⟨⟨r, k⟩, first⟩ := Option.isSome_iff_exists.1 firstMapped
  obtain ⟨row, mem, rfl, start, inRow⟩ := regAt_some first
  have within : k + n.bytes ≤ row.reg.bytes := by
    have last := aligned_same_word size aligned (Nat.sub_lt n.bytes_pos one_pos)
    have := registerMap_aligned row mem
    have := n.bytes_pos
    omega
  exact ⟨row.reg, k, within, fun j hj => regAt_add first (by omega)⟩

/-! The bytes of the registers (20_memory.md R63). -/

theorem readByte_of_regAt {o : Nat} (h : regAt o = some (r, k)) (s : State) :
    readByte o s = some (byteOf (regValue r s) r.bytes k) := by
  simp [readByte, h]

theorem readByte_of_regAt_none {o : Nat} (h : regAt o = none) (s : State) : readByte o s = none := by
  simp [readByte, h]

/-- Byte `k` of a data register, cut from its bits. -/
theorem byteOf_data (d : Dword) (k : Nat) : byteOf d 8 k = d.extractLsb' (56 - 8 * k) 8 := by
  rw [byteOf, show 8 * (8 - 1 - k) = 56 - 8 * k by omega]

/-- Byte `k` of a control register, cut from its bits. -/
theorem byteOf_control (w : Word) (k : Nat) : byteOf (w.setWidth 64) 4 k = w.extractLsb' (24 - 8 * k) 8 := by
  rw [byteOf, show 8 * (4 - 1 - k) = 24 - 8 * k by omega]
  apply BitVec.eq_of_getLsbD_eq
  intro i hi
  have inWord : 24 - 8 * k + i < 64 := by omega
  simp [inWord]

/-- The byte of a data register at its place in the window. -/
theorem readByte_data (s : State) {row : MapRow} (mem : row ∈ registerMap) (data : row.reg.bytes = 8) (hk : k < 8) :
    readByte (row.offset + k) s = some ((regValue row.reg s).extractLsb' (56 - 8 * k) 8) := by
  rw [readByte_of_regAt (regAt_row row mem k (data ▸ hk)), data, byteOf_data]

/-- The byte of a control register, whose contents are the word `w`, at its place in the window. -/
theorem readByte_control (s : State) {row : MapRow} {w : Word} (mem : row ∈ registerMap)
    (control : row.reg.bytes = 4) (contents : regValue row.reg s = w.setWidth 64) (hk : k < 4) :
    readByte (row.offset + k) s = some (w.extractLsb' (24 - 8 * k) 8) := by
  rw [readByte_of_regAt (regAt_row row mem k (control ▸ hk)), control, contents, byteOf_control]

/-- Settles O43: each register's row, and the bytes cut from its contents. -/
theorem registerBytesAreBigEndian : Obligations.RegisterBytesAreBigEndian := by
  intro s k
  refine ⟨fun hk => ⟨?_, ?_, ?_, ?_, ?_, ?_, ?_⟩, fun hk => ⟨?_, ?_, ?_, ?_, ?_⟩⟩
  · exact readByte_data s (row := ⟨0x10, .opa⟩) (by decide) rfl hk
  · exact readByte_data s (row := ⟨0x18, .opb⟩) (by decide) rfl hk
  · exact readByte_data s (row := ⟨0x20, .opm⟩) (by decide) rfl hk
  · exact readByte_data s (row := ⟨0x30, .res⟩) (by decide) rfl hk
  · exact readByte_data s (row := ⟨0x38, .gcd⟩) (by decide) rfl hk
  · exact readByte_data s (row := ⟨0x40, .ex⟩) (by decide) rfl hk
  · exact readByte_data s (row := ⟨0x48, .ey⟩) (by decide) rfl hk
  · exact readByte_control s (row := ⟨0x00, .cmd⟩) (by decide) rfl rfl hk
  · exact readByte_control s (row := ⟨0x04, .status⟩) (by decide) rfl rfl hk
  · exact readByte_control s (row := ⟨0x08, .ctrl⟩) (by decide) rfl rfl hk
  · exact readByte_control s (row := ⟨0x0C, .iter⟩) (by decide) rfl rfl hk
  · exact readByte_control s (row := ⟨0x7C, .id⟩) (by decide) rfl rfl hk

/-! Reads (20_memory.md R64, R66). -/

/-- The first `m` bytes of a sequence as a big-endian number (20_memory.md R64). -/
def bigEndianSum (byte : Nat → Byte) (m : Nat) : Nat :=
  ((List.range m).map fun j => (byte j).toNat * 256 ^ (m - 1 - j)).sum

theorem bigEndianSum_succ (byte : Nat → Byte) (m : Nat) :
    bigEndianSum byte (m + 1) = 256 * bigEndianSum byte m + (byte m).toNat := by
  have shifted : ∀ j ∈ List.range m,
      (byte j).toNat * 256 ^ (m + 1 - 1 - j) = 256 * ((byte j).toNat * 256 ^ (m - 1 - j)) := by
    intro j hj
    have := List.mem_range.1 hj
    rw [show m + 1 - 1 - j = m - 1 - j + 1 by omega, pow_succ]
    ring
  simp only [bigEndianSum, List.range_succ, List.map_append, List.sum_append, List.map_congr_left shifted,
    List.sum_map_mul_left]
  simp

theorem bigEndianSum_lt (byte : Nat → Byte) (m : Nat) : bigEndianSum byte m < 256 ^ m := by
  induction m with
  | zero => exact Nat.one_pos
  | succ m ih =>
    have := (byte m).isLt
    rw [bigEndianSum_succ, pow_succ]
    omega

/-- Shifting a byte into a word of at most three bytes loses nothing. -/
theorem toNat_shiftLeft_or_byte {acc : Word} (fits : acc.toNat < 2 ^ 24) (b : Byte) :
    ((acc <<< 8) ||| b.setWidth 32).toNat = 256 * acc.toNat + b.toNat := by
  have := b.isLt
  have noLoss : acc.toNat <<< 8 % 2 ^ 32 = 2 ^ 8 * acc.toNat := by rw [Nat.shiftLeft_eq]; omega
  rw [BitVec.toNat_or, BitVec.toNat_shiftLeft, noLoss, BitVec.toNat_setWidth, Nat.mod_eq_of_lt (by omega),
    ← Nat.two_pow_add_eq_or_of_lt b.isLt]

/-- Up to four bytes shifted into a word, most significant first, are their big-endian number. -/
theorem toNat_foldl_shiftLeft_or (byte : Nat → Byte) {m : Nat} (fits : m ≤ 4) :
    ((List.range m).foldl (fun (acc : Word) j => (acc <<< 8) ||| (byte j).setWidth 32) 0).toNat =
      bigEndianSum byte m := by
  induction m with
  | zero => rfl
  | succ m ih =>
    have value := ih (by omega)
    have : 256 ^ m ≤ 256 ^ 3 := Nat.pow_le_pow_right (by decide) (by omega)
    have := bigEndianSum_lt byte m
    rw [List.range_succ, List.foldl_append, List.foldl_cons, List.foldl_nil, toNat_shiftLeft_or_byte (by omega), value,
      bigEndianSum_succ]

/-- The value of a legal read is shifted in from the bytes of the register it lies in. -/
theorem readValue_within {s : State} (within : ∀ j < n.bytes, regAt (off.toNat + j) = some (r, k + j)) :
    readValue off n s = (List.range n.bytes).foldl
      (fun (acc : Word) j => (acc <<< 8) ||| (byteOf (regValue r s) r.bytes (k + j)).setWidth 32) 0 := by
  rw [readValue, touched, List.foldl_map]
  refine List.foldl_ext _ _ _ fun acc j hj => ?_
  rw [readByte_of_regAt (within j (List.mem_range.1 hj)), Option.getD_some]

theorem Size.bytes_le_four (size : n ≠ .illegal) : n.bytes ≤ 4 := by
  cases n with
  | illegal => exact absurd rfl size
  | b1 | b2 | b4 => decide

/-- Settles O42: the bytes are those of the one register the access lies in. -/
theorem readsAssembleBytesBigEndian : Obligations.ReadsAssembleBytesBigEndian := by
  intro off n s legal
  obtain ⟨r, k, -, within⟩ := legalAccess_within legal
  obtain ⟨size, -⟩ := (legalAccess_iff off n).1 legal
  refine ⟨readValue off n s, fun j => byteOf (regValue r s) r.bytes (k + j), ?_, fun j hj => ?_, ?_⟩
  · rw [busStep_read, memRead, if_pos legal]
  · exact readByte_of_regAt (within j hj) s
  · rw [readValue_within within]
    exact toNat_foldl_shiftLeft_or _ (Size.bytes_le_four size)

/-! Writes (20_memory.md R67 to R69). -/

/-- Settles O41: the reply is the bus error, and an illegal write stores nothing. -/
theorem illegalAccessChangesNothing : Obligations.IllegalAccessChangesNothing := by
  intro off n v s illegal
  rw [busStep_read, busStep_write, memRead, memWrite, writeReply]
  simp [illegal]

/-- A legal write is the write of the register its first byte lies in, acknowledged. -/
theorem busStep_write_legal (v : Word) (s : State) (legal : legalAccess off n = true)
    (first : regAt off.toNat = some (r, k)) :
    busStep (.write off n v) s = { writeReg r k n v s with reply := some .ack } := by
  simp [busStep_write, memWrite, writeReply, legal, first]

/-- The registers the host cannot write (20_memory.md R69). -/
def Reg.readOnly : Reg → Bool
  | .res | .gcd | .ex | .ey | .iter | .id => true
  | .cmd | .status | .ctrl | .opa | .opb | .opm => false

theorem writeReg_readOnly (h : r.readOnly = true) (k : Nat) (n : Size) (v : Word) (s : State) :
    writeReg r k n v s = s := by
  cases r with
  | res | gcd | ex | ey | iter | id => rfl
  | cmd | status | ctrl | opa | opb | opm => cases h

/-- From `0x30` on, and at `0x0C`, the map has read-only registers alone. -/
theorem registerMap_readOnly : ∀ row ∈ registerMap, ∀ k < row.reg.bytes,
    row.offset + k = 0x0C ∨ 0x30 ≤ row.offset + k → row.reg.readOnly = true := by decide

/-- Settles O45: the register written is a read-only one. -/
theorem readOnlyRegistersDiscardWrites : Obligations.ReadOnlyRegistersDiscardWrites := by
  intro off n v s legal place
  obtain ⟨r, k, -, within⟩ := legalAccess_within legal
  have first := within 0 n.bytes_pos
  obtain ⟨row, mem, rfl, start, inRow⟩ := regAt_some first
  have readOnly := registerMap_readOnly row mem _ inRow (start ▸ place)
  rw [busStep_write_legal v s legal first, writeReg_readOnly readOnly]

/-- Clearing a flag by a written 1: the flag and not the bit. -/
theorem and_not_getLsbD (flag : Bool) (v : Word) (i : Nat) :
    (flag && !v.getLsbD i) = if v.toNat / 2 ^ i % 2 = 1 then false else flag := by
  rw [BitVec.getLsbD, Nat.testBit_eq_decide_div_mod_eq]
  split <;> simp_all

/-- Settles O46: the two writes, with the bits tested as digits of the value. -/
theorem statusAndCtrlWritesActOnTheirBitsOnly : Obligations.StatusAndCtrlWritesActOnTheirBitsOnly := by
  intro v s
  constructor
  · rw [busStep_write_legal (r := .status) (k := 0) v s (by decide) (by decide), writeReg, writeStatus,
      and_not_getLsbD, and_not_getLsbD]
    rfl
  · rw [busStep_write_legal (r := .ctrl) (k := 0) v s (by decide) (by decide), writeReg, writeCtrl,
      BitVec.getLsbD, Nat.testBit_eq_decide_div_mod_eq]
    simp

/-! Writes to the operand registers (20_memory.md R67). -/

/-- Byte `j` of the `n` of a write value is its base-256 digit. -/
theorem valueByte_eq_digit (v : Word) (m j : Nat) :
    valueByte v m j = BitVec.ofNat 8 (v.toNat / 256 ^ (m - 1 - j)) := by
  apply BitVec.eq_of_toNat_eq
  rw [valueByte, BitVec.extractLsb'_toNat, BitVec.toNat_ofNat, Nat.shiftRight_eq_div_pow, Nat.pow_mul]

/-- A byte of a data register after one of its bytes was replaced. -/
theorem byteOf_setByte (d : Dword) (b : Byte) {m : Nat} (hk : k < 8) (hm : m < 8) :
    byteOf (setByte d k b) 8 m = if m = k then b else byteOf d 8 m := by
  have mask : (0xFF#64 : Dword) = (BitVec.allOnes 8).setWidth 64 := rfl
  apply BitVec.eq_of_getLsbD_eq
  intro i hi
  have inDword : 8 * (8 - 1 - m) + i < 64 := by omega
  simp only [byteOf, setByte, mask, BitVec.getLsbD_extractLsb', BitVec.getLsbD_or, BitVec.getLsbD_and,
    BitVec.getLsbD_not, BitVec.getLsbD_shiftLeft, BitVec.getLsbD_setWidth, BitVec.getLsbD_allOnes, hi, inDword,
    decide_true, Bool.true_and, show 8 - 1 - m = 7 - m from rfl]
  obtain above | rfl | below := lt_trichotomy m k
  · have beyond : 8 ≤ 8 * (7 - m) + i - 8 * (7 - k) := by omega
    simp [above.ne, BitVec.getLsbD_of_ge b _ beyond, beyond.not_gt, hi]
  · have inByte : i < 64 := by omega
    simp [hi, inByte]
  · have short : 8 * (7 - m) + i < 8 * (7 - k) := by omega
    simp [below.ne', short, hi]

/-- A byte of a data register after a write: the value's byte where the write touches it. -/
theorem byteOf_spliceBytes (d : Dword) (v : Word) {l m : Nat} (fits : k + l ≤ 8) (hm : m < 8) :
    byteOf (spliceBytes d k l v) 8 m = if k ≤ m ∧ m < k + l then valueByte v l (m - k) else byteOf d 8 m := by
  suffices partWritten : ∀ i ≤ l,
      byteOf ((List.range i).foldl (fun acc j => setByte acc (k + j) (valueByte v l j)) d) 8 m =
        if k ≤ m ∧ m < k + i then valueByte v l (m - k) else byteOf d 8 m from partWritten l le_rfl
  intro i hi
  induction i with
  | zero => simp
  | succ i ih =>
    rw [List.range_succ, List.foldl_append, List.foldl_cons, List.foldl_nil, byteOf_setByte _ _ (by omega) hm,
      ih (by omega)]
    by_cases here : m = k + i
    · rw [if_pos here, if_pos (by omega), here, Nat.add_sub_cancel_left]
    · rw [if_neg here]
      exact if_congr (by omega) rfl rfl

/-- The operand registers (10_state.md R21 to R23). -/
def Reg.isOperand : Reg → Bool
  | .opa | .opb | .opm => true
  | .cmd | .status | .ctrl | .iter | .res | .gcd | .ex | .ey | .id => false

theorem registerMap_operand : ∀ row ∈ registerMap, ∀ k < row.reg.bytes,
    0x10 ≤ row.offset + k ∧ row.offset + k < 0x28 → row.reg.isOperand = true := by decide

/-- A write to an operand register leaves everything but the operand registers. -/
theorem writeReg_operand_frame (operand : r.isOperand = true) (k : Nat) (n : Size) (v : Word) (s : State) :
    writeReg r k n v s =
      { s with
        opa := (writeReg r k n v s).opa
        opb := (writeReg r k n v s).opb
        opm := (writeReg r k n v s).opm } := by
  cases r with
  | opa | opb | opm => rfl
  | cmd | status | ctrl | iter | res | gcd | ex | ey | id => cases operand

/-- What the registers hold after a write to an operand register. -/
theorem regValue_writeReg_operand (operand : r.isOperand = true) (q : Reg) (k : Nat) (n : Size) (v : Word) (s : State) :
    regValue q (writeReg r k n v s) =
      if q = r then spliceBytes (regValue r s) k n.bytes v else regValue q s := by
  cases r with
  | opa | opb | opm => cases q <;> rfl
  | cmd | status | ctrl | iter | res | gcd | ex | ey | id => cases operand

theorem Reg.bytes_of_isOperand (operand : r.isOperand = true) : r.bytes = 8 := by
  cases r with
  | opa | opb | opm => rfl
  | cmd | status | ctrl | iter | res | gcd | ex | ey | id => cases operand

/-- The bus's answer is no register's. -/
theorem readByte_reply (o : Nat) (s : State) (reply : Option Reply) :
    readByte o { s with reply := reply } = readByte o s :=
  readByte_congr o fun q => by cases q <;> rfl

/-- No register has two rows. -/
theorem registerMap_offset_unique :
    ∀ row ∈ registerMap, ∀ other ∈ registerMap, row.reg = other.reg → row.offset = other.offset := by decide

/-- Two bytes of one register lie as far apart as their places in it. -/
theorem regAt_same_reg {o p m : Nat} (ho : regAt o = some (r, k)) (hp : regAt p = some (r, m)) : o + m = p + k := by
  obtain ⟨row, mem, rfl, rfl, -⟩ := regAt_some ho
  obtain ⟨other, mem', same, rfl, -⟩ := regAt_some hp
  have := registerMap_offset_unique row mem other mem' same.symm
  omega

/-- A byte the write touches reads as the value's byte. -/
theorem readByte_writeReg_touched {o j : Nat} (operand : r.isOperand = true) (first : regAt o = some (r, k))
    (fits : k + n.bytes ≤ r.bytes) (hj : j < n.bytes) (v : Word) (s : State) :
    readByte (o + j) (writeReg r k n v s) = some (valueByte v n.bytes j) := by
  rw [readByte_of_regAt (regAt_add first (by omega)), regValue_writeReg_operand operand, if_pos rfl]
  rw [Reg.bytes_of_isOperand operand] at fits ⊢
  rw [byteOf_spliceBytes _ v fits (by omega), if_pos (by omega), Nat.add_sub_cancel_left]

/-- A byte the write does not touch reads as before, in the same register too. -/
theorem readByte_writeReg_untouched {o p : Nat} (operand : r.isOperand = true) (first : regAt o = some (r, k))
    (fits : k + n.bytes ≤ r.bytes) (untouched : ¬ (o ≤ p ∧ p < o + n.bytes)) (v : Word) (s : State) :
    readByte p (writeReg r k n v s) = readByte p s := by
  cases lookup : regAt p with
  | none => rw [readByte_of_regAt_none lookup, readByte_of_regAt_none lookup]
  | some place =>
    obtain ⟨q, m⟩ := place
    rw [readByte_of_regAt lookup, readByte_of_regAt lookup, regValue_writeReg_operand operand]
    by_cases same : q = r
    · subst same
      obtain ⟨row, -, rfl, -, inReg⟩ := regAt_some lookup
      have apart := regAt_same_reg first lookup
      rw [Reg.bytes_of_isOperand operand] at fits inReg ⊢
      rw [if_pos rfl, byteOf_spliceBytes _ v fits inReg, if_neg (by omega)]
    · rw [if_neg same]

/-- Settles O44: the register written is an operand register, and its bytes are the old ones with the value's spliced
in. -/
theorem operandWritesReplaceTheTouchedBytesOnly : Obligations.OperandWritesReplaceTheTouchedBytesOnly := by
  intro off n v s legal low high t
  obtain ⟨r, k, fits, within⟩ := legalAccess_within legal
  have first : regAt off.toNat = some (r, k) := within 0 n.bytes_pos
  have operand : r.isOperand = true := by
    obtain ⟨row, mem, rfl, start, inRow⟩ := regAt_some first
    exact registerMap_operand row mem k inRow (start ▸ ⟨low, high⟩)
  have written : t = { writeReg r k n v s with reply := some .ack } := busStep_write_legal v s legal first
  rw [written]
  refine ⟨congrArg (fun u : State => { u with reply := some .ack }) (writeReg_operand_frame operand k n v s),
    fun o => ?_⟩
  rw [readByte_reply]
  split
  · next touched =>
    obtain ⟨j, rfl⟩ := Nat.exists_eq_add_of_le touched.1
    rw [readByte_writeReg_touched operand first fits (by omega), valueByte_eq_digit, Nat.add_sub_cancel_left]
  · next untouched => exact readByte_writeReg_untouched operand first fits untouched v s

/-! Bus addresses (20_memory.md R60, R70). -/

/-- Settles O39: the offset is the distance from `BASE`, which stays below 128 for a 7-bit offset. -/
theorem busAddressesMapToOffsets : Obligations.BusAddressesMapToOffsets := by
  refine ⟨fun off => ?_, fun addr outside => ?_, Nat.mul_mod_right 128 Config.baseIndex⟩
  · have inWindow : off.toNat < Config.windowBytes := off.isLt
    rw [windowOffset, if_pos (by omega), Nat.add_sub_cancel_left, BitVec.ofNat_toNat, BitVec.setWidth_eq]
  · have size : Config.windowBytes = 0x80 := rfl
    rw [windowOffset, if_neg (by omega)]

end Sys2Proof.Machine
end

section
/-! The command words (30_encoding.md R90 to R96): a word by its fields, the decoder and the encoder against each other,
and the two host statements that make a transaction (R97). -/

namespace Sys2Proof

/-! A word by its fields (30_encoding.md R90). -/

/-- Bits 31:5, bit 4 and bits 3:0 make up the word. -/
theorem extractLsb'_append_fields (w : Word) :
    w.extractLsb' 5 27 ++ w.extractLsb' 4 1 ++ w.extractLsb' 0 4 = w := by
  rw [BitVec.extractLsb'_append_extractLsb'_eq_extractLsb' (by rfl),
    BitVec.extractLsb'_append_extractLsb'_eq_extractLsb' (by rfl)]
  exact BitVec.extractLsb'_eq_self

/-- The reserved bits are 0 where dividing them off leaves nothing. -/
theorem reservedField_eq_zero_iff (w : Word) : w.extractLsb' 5 27 = 0#27 ↔ w.toNat / 2 ^ 5 = 0 := by
  have := w.isLt
  rw [← BitVec.toNat_inj, BitVec.extractLsb'_toNat, Nat.shiftRight_eq_div_pow, BitVec.toNat_ofNat]
  omega

/-- The opcode field is the word's last hexadecimal digit. -/
theorem toNat_opcodeField (w : Word) : (w.extractLsb' 0 4).toNat = w.toNat % 2 ^ 4 := by
  rw [BitVec.extractLsb'_toNat, Nat.shiftRight_zero]

/-- The bit of the operand source that the decoder reads is bit 4. -/
theorem asField_bit (w : Word) : (asField w).bit = w.extractLsb' 4 1 := by
  apply BitVec.eq_of_getLsbD_eq
  intro i hi
  obtain rfl : i = 0 := by omega
  rw [BitVec.getLsbD_extractLsb', asField]
  cases w.getLsbD (4 + 0) <;> rfl

/-- What a word that decodes looks like: reserved bits 0, its own bit 4, and the opcode of its command. -/
theorem decodeWord_ok_fields {w : Word} {i : Instr} (h : decodeWord w = .ok i) :
    w = 0#27 ++ (asField w).bit ++ i.opcode ∧ (i = .nop ∨ i.source = asField w) := by
  obtain ⟨-, refused⟩ | ⟨-, -, refused⟩ | ⟨reserved, -, j, answer, opcode, source⟩ := decodeWord_cases w
  · cases refused.symm.trans h
  · cases refused.symm.trans h
  · cases answer.symm.trans h
    refine ⟨?_, source⟩
    calc w = w.extractLsb' 5 27 ++ w.extractLsb' 4 1 ++ w.extractLsb' 0 4 := (extractLsb'_append_fields w).symm
      _ = 0#27 ++ (asField w).bit ++ i.opcode := by rw [reserved, asField_bit, BitVec.eq_of_toNat_eq opcode]

/-! Decoder and encoder (30_encoding.md R94, R95). -/

/-- The family `Encoding` for every command. -/
theorem Laws.Encoding.all (i : Instr) : Laws.Encoding.Statement i := by
  cases i with
  | nop => exact Laws.Encoding.nop
  | modexp src => exact Laws.Encoding.modexp src
  | mulmod src => exact Laws.Encoding.mulmod src
  | gcd src => exact Laws.Encoding.gcd src
  | egcd src => exact Laws.Encoding.egcd src
  | modinv src => exact Laws.Encoding.modinv src
  | fermat src => exact Laws.Encoding.fermat src

@[simp] theorem decodeWord_encode (i : Instr) : decodeWord (encode i) = .ok i := by
  obtain ⟨-, -, read, -⟩ := Laws.Encoding.all i
  exact read

/-- A legal word is its command's, but for the second word of `NOP` (30_encoding.md R95). -/
theorem encode_of_decodeWord {w : Word} {i : Instr} (h : decodeWord w = .ok i) :
    encode i = w ∨ (w = 0x00000010#32 ∧ i = .nop) := by
  obtain ⟨fields, rfl | source⟩ := decodeWord_ok_fields h
  · cases as : asField w with
    | opa => rw [as] at fields; exact .inl fields.symm
    | res => rw [as] at fields; exact .inr ⟨fields, rfl⟩
  · left
    rw [encode, source, ← fields]

/-- The four bytes of a word in window order make up the word again (20_memory.md R63). -/
theorem wordOfBytes_bytesOfWord (w : Word) :
    wordOfBytes (w.extractLsb' 24 8) (w.extractLsb' 16 8) (w.extractLsb' 8 8) (w.extractLsb' 0 8) = w := by
  rw [wordOfBytes, BitVec.extractLsb'_append_extractLsb'_eq_extractLsb' (by rfl),
    BitVec.extractLsb'_append_extractLsb'_eq_extractLsb' (by rfl),
    BitVec.extractLsb'_append_extractLsb'_eq_extractLsb' (by rfl)]
  exact BitVec.extractLsb'_eq_self

/-- Decoding from the bytes of a word is decoding the word, and leaves the bytes after it. -/
theorem decode_bytesOfWord_append {w : Word} {i : Instr} (h : decodeWord w = .ok i) (rest : List Byte) :
    decode (bytesOfWord w ++ rest) = .ok (i, rest) := by
  simp only [bytesOfWord, List.cons_append, List.nil_append, decode, wordOfBytes_bytesOfWord, h]

/-- Settles O2: the encoder's words decode, a legal word is made of its command's fields, and bytes are the word's. -/
theorem decodeAndEncodeAreInverse : Obligations.DecodeAndEncodeAreInverse :=
  ⟨decodeWord_encode, fun _ _ => encode_of_decodeWord,
    fun i rest => decode_bytesOfWord_append (decodeWord_encode i) rest⟩

/-- Settles O3: the decoder's three exits, with the word's fields as numbers. -/
theorem decoderRefusesExactlyTheIllegalWords : Obligations.DecoderRefusesExactlyTheIllegalWords := by
  intro w
  rw [← toNat_opcodeField, ne_eq, ← reservedField_eq_zero_iff]
  obtain ⟨reserved, answer⟩ | ⟨-, opcode, answer⟩ | ⟨reserved, opcode, i, answer, -⟩ := decodeWord_cases w
  · exact iff_of_true ⟨_, answer⟩ (.inl reserved)
  · exact iff_of_true ⟨_, answer⟩ (.inr opcode)
  · refine iff_of_false (fun ⟨e, refused⟩ => ?_) (not_or.2 ⟨not_not.2 reserved, opcode.not_ge⟩)
    cases answer.symm.trans refused

/-- Settles O1: the decoder evaluated on each of the sixteen words. -/
theorem tableWordsDecode : Obligations.TableWordsDecode := by
  unfold Obligations.TableWordsDecode
  decide

end Sys2Proof

namespace Sys2Proof.Machine

variable {h : HostState} {s : State} {n : Size} {off : BitVec 7}

/-! The host statements that make a transaction (30_encoding.md R97). -/

theorem hostStep_wr {v : HostExpr} {x : Int} (statement : h.script[h.position]? = some (.wr n off v))
    (value : v.eval h = some x) :
    hostStep h s = .next h.advance (busStep (.write off n (BitVec.ofInt 32 x)) s) := by
  simp only [hostStep, statement, value]

theorem hostStep_rd {name : HostName} (statement : h.script[h.position]? = some (.rd n off name)) :
    hostStep h s = .next (h.advance.bind name (memRead off n s).value) (busStep (.read off n) s) := by
  simp only [hostStep, statement]

theorem memRead_illegal (illegal : legalAccess off n = false) : memRead off n s = .busError := by
  simp [memRead, illegal]

/-- Settles O58: the two statements' turns, and what binding the name to the reply's value does to each name. -/
theorem hostStatementsMakeOneTransactionAndGoOn : Obligations.HostStatementsMakeOneTransactionAndGoOn := by
  refine ⟨fun h s n off v x statement value => hostStep_wr statement value, fun h s n off name statement =>
    ⟨h.advance.bind name (memRead off n s).value, hostStep_rd statement, by simp, by simp, by simp,
      fun v data => ?_, fun illegal => ?_, fun other ne => ?_⟩⟩
  · rw [HostState.value_bind_same, data, Reply.value]
  · rw [HostState.value_bind_same, memRead_illegal illegal, Reply.value]
  · rw [HostState.value_bind_other _ _ ne, HostState.value_advance]

end Sys2Proof.Machine
end

section
/-! The value-level definitions (00_scope.md R8, 42_gcd_egcd_modinv.md R143, R144): the length of a number, the
recursion and its division steps, as equations and bounds. -/

namespace Sys2Proof.Machine

theorem toNat_eq_zero_iff {n : Nat} (x : BitVec n) : x.toNat = 0 ↔ x = 0 := by
  rw [← BitVec.toNat_inj]
  rfl

theorem toNat_sub_one {x : Dword} (ne : x ≠ 0) : (x - 1).toNat = x.toNat - 1 := by
  have := mt (toNat_eq_zero_iff x).1 ne
  bv_omega

/-! The length of a number (00_scope.md R8). -/

theorem bitlen_zero : bitlen 0 = 0 := rfl

theorem bitlen_le {v l : Nat} (h : v < 2 ^ l) : bitlen v ≤ l := by
  unfold bitlen
  split
  · exact Nat.zero_le l
  · next ne => exact (Nat.log2_lt ne).2 h

theorem lt_two_pow_bitlen (v : Nat) : v < 2 ^ bitlen v := by
  unfold bitlen
  split
  · next zero => rw [zero]; exact Nat.one_pos
  · exact Nat.lt_log2_self

/-! Recursions on the remainder, with a bound on their depth. -/

/-- A recursion on the remainder does not depend on its depth bound, where that exceeds the second operand. -/
theorem fuel_irrelevant {α : Type} {f : Nat → Nat → Nat → α} {stop : Nat → α} {next : Nat → Nat → α → α}
    (eqn : ∀ fuel a b, f (fuel + 1) a b = if b = 0 then stop a else next a b (f fuel b (a % b))) (a : Nat)
    {b fuel : Nat} (enough : b < fuel) : f fuel a b = f (b + 1) a b := by
  suffices ∀ fuel b, b < fuel → ∀ fuel', b < fuel' → ∀ a, f fuel a b = f fuel' a b from
    this fuel b enough (b + 1) b.lt_succ_self a
  intro fuel
  induction fuel with
  | zero => exact fun b none => absurd none b.not_lt_zero
  | succ fuel ih =>
    intro b enough fuel' enough' a
    obtain ⟨fuel', rfl⟩ := Nat.exists_eq_add_one_of_ne_zero (Nat.ne_zero_of_lt enough')
    rw [eqn, eqn]
    by_cases zero : b = 0
    · rw [if_pos zero, if_pos zero]
    · have falls := Nat.mod_lt a (Nat.pos_of_ne_zero zero)
      rw [if_neg zero, if_neg zero, ih (a % b) (by omega) fuel' (by omega) b]

/-! The recursion of R144. -/

theorem extendedGcdFuel_eq (a : Nat) {b fuel : Nat} (enough : b < fuel) : extendedGcdFuel fuel a b = extendedGcd a b :=
  fuel_irrelevant (f := extendedGcdFuel) (stop := fun a => (a, 1, 0))
    (next := fun a b child => (child.1, child.2.2, child.2.1 - (a / b : Nat) * child.2.2)) (fun _ _ _ => rfl) a enough

theorem extendedGcd_zero (a : Nat) : extendedGcd a 0 = (a, 1, 0) := rfl

theorem extendedGcd_rec (a : Nat) {b : Nat} (ne : b ≠ 0) :
    extendedGcd a b =
      ((extendedGcd b (a % b)).1, (extendedGcd b (a % b)).2.2,
        (extendedGcd b (a % b)).2.1 - (a / b : Nat) * (extendedGcd b (a % b)).2.2) := by
  have falls := Nat.mod_lt a (Nat.pos_of_ne_zero ne)
  rw [extendedGcd, extendedGcdFuel, if_neg ne, extendedGcdFuel_eq b falls]

/-- The recursion's first component is the greatest common divisor (R141). -/
theorem gcdOf_eq_gcd (a b : Nat) : gcdOf a b = Nat.gcd a b := by
  induction b using Nat.strong_induction_on generalizing a with
  | _ b ih =>
    by_cases zero : b = 0
    · rw [zero, gcdOf, extendedGcd_zero, Nat.gcd_zero_right]
    · rw [gcdOf, extendedGcd_rec a zero, Nat.gcd_comm, Nat.gcd_rec, Nat.gcd_comm]
      exact ih (a % b) (Nat.mod_lt a (Nat.pos_of_ne_zero zero)) b

/-! The division steps of R143. -/

theorem euclidStepsFuel_eq (a : Nat) {b fuel : Nat} (enough : b < fuel) : euclidStepsFuel fuel a b = euclidSteps a b :=
  fuel_irrelevant (f := euclidStepsFuel) (stop := fun _ => 0) (next := fun _ _ steps => steps + 1) (fun _ _ _ => rfl) a
    enough

theorem euclidSteps_zero (a : Nat) : euclidSteps a 0 = 0 := rfl

theorem euclidSteps_rec (a : Nat) {b : Nat} (ne : b ≠ 0) : euclidSteps a b = euclidSteps b (a % b) + 1 := by
  have falls := Nat.mod_lt a (Nat.pos_of_ne_zero ne)
  rw [euclidSteps, euclidStepsFuel, if_neg ne, euclidStepsFuel_eq b falls]

theorem euclidSteps_pos_iff (a b : Nat) : 0 < euclidSteps a b ↔ b ≠ 0 := by
  by_cases zero : b = 0
  · simp [zero, euclidSteps_zero]
  · simp [zero, euclidSteps_rec]

/-- Operands of `n` division steps are at least the Fibonacci numbers of index `n + 1` and, where the first step is no
mere exchange, `n + 2` (R146). -/
theorem fib_le_of_euclidSteps (a b : Nat) (ne : b ≠ 0) :
    Nat.fib (euclidSteps a b + 1) ≤ b ∧ (b < a → Nat.fib (euclidSteps a b + 2) ≤ a) := by
  induction b using Nat.strong_induction_on generalizing a with
  | _ b ih =>
    have falls := Nat.mod_lt a (Nat.pos_of_ne_zero ne)
    rw [euclidSteps_rec a ne]
    by_cases last : a % b = 0
    · rw [last, euclidSteps_zero]
      simp only [Nat.zero_add, Nat.reduceAdd, show Nat.fib 2 = 1 from rfl, show Nat.fib 3 = 2 from rfl]
      omega
    · obtain ⟨divisor, dividend⟩ := ih (a % b) falls b last
      refine ⟨dividend falls, fun larger => ?_⟩
      have quotient : b * 1 ≤ b * (a / b) :=
        Nat.mul_le_mul_left b (Nat.div_pos larger.le (Nat.pos_of_ne_zero ne))
      have division := Nat.div_add_mod a b
      calc Nat.fib (euclidSteps b (a % b) + 1 + 2)
          = Nat.fib (euclidSteps b (a % b) + 1) + Nat.fib (euclidSteps b (a % b) + 2) := Nat.fib_add_two
        _ ≤ a % b + b := Nat.add_le_add divisor (dividend falls)
        _ ≤ a := by omega

/-- A 64-bit second operand allows at most 92 division steps (R146, 70_reset_and_hazards.md R262). -/
theorem euclidSteps_le (a : Nat) {b : Nat} (fits : b < 2 ^ 64) : euclidSteps a b ≤ Config.maxEuclidSteps := by
  by_cases zero : b = 0
  · rw [zero, euclidSteps_zero]
    exact Nat.zero_le _
  · obtain ⟨divisor, -⟩ := fib_le_of_euclidSteps a b zero
    by_contra more
    simp only [Config.maxEuclidSteps] at more
    have monotone : Nat.fib 94 ≤ Nat.fib (euclidSteps a b + 1) := Nat.fib_mono (by omega)
    have beyond : 2 ^ 64 < Nat.fib 94 := by norm_num
    omega

end Sys2Proof.Machine
end

section
/-! The two datapaths under their invariants (43_modexp_mulmod.md R161, 42_gcd_egcd_modinv.md R143, R146, R147): accept
establishes each invariant, one `iterate` keeps it and takes one of the steps still due, and at the loop's end the
registers hold the value-level result. -/

namespace Sys2Proof.Machine

variable {a b e n : Nat} {k : Kernel}

/-! The counter of `iterate` steps (10_state.md R42): 7 bits are enough for the bounds of 70_reset_and_hazards.md
R262. -/

theorem toNat_iter_succ {iter : BitVec 7} (small : iter.toNat < Config.maxEuclidSteps) :
    (iter + 1).toNat = iter.toNat + 1 := by
  simp only [Config.maxEuclidSteps] at small
  bv_omega

/-! Square and multiply (43_modexp_mulmod.md R161). -/

theorem modexp_lt (a e : Nat) (pos : 0 < n) : modexp a e n < n := Nat.mod_lt _ pos

/-- A remainder by a modulus of 64 bits fits 64 bits. -/
theorem toNat_ofNat_mod {n : Dword} (ne : n ≠ 0) (v : Nat) : (BitVec.ofNat 64 (v % n.toNat)).toNat = v % n.toNat := by
  have below := Nat.mod_lt v (Nat.pos_of_ne_zero (mt (toNat_eq_zero_iff n).1 ne))
  rw [BitVec.toNat_ofNat, Nat.mod_eq_of_lt (below.trans n.isLt)]

theorem toNat_mulMod (x y : Dword) {n : Dword} (ne : n ≠ 0) : (mulMod x y n).toNat = x.toNat * y.toNat % n.toNat :=
  toNat_ofNat_mod ne _

theorem toNat_reduce (v : Nat) {n : Dword} (ne : n ≠ 0) : (reduce v n.toNat).toNat = v % n.toNat :=
  toNat_ofNat_mod ne _

/-- One more bit of the exponent squares the power, and multiplies by the base where it is 1. -/
theorem modexp_next_bit (a q n : Nat) (bit : Bool) :
    modexp a (2 * q + bit.toNat) n =
      if bit then modexp a q n * modexp a q n % n * (a % n) % n else modexp a q n * modexp a q n % n := by
  cases bit with
  | false =>
    simp only [modexp, Bool.toNat_false, Bool.false_eq_true, if_false, Nat.add_zero, two_mul, pow_add, ← Nat.mul_mod]
  | true =>
    simp only [modexp, Bool.toNat_true, if_true, two_mul, pow_add, pow_one, ← Nat.mul_mod]

/-- Bit `i` of the exponent comes after the bits above it. -/
theorem div_two_pow_eq (e i : Nat) : e / 2 ^ i = 2 * (e / 2 ^ (i + 1)) + (e.testBit i).toNat := by
  rw [Nat.toNat_testBit, pow_succ, ← Nat.div_div_eq_div_mul]
  omega

/-- The initial values of the datapath (R161). -/
theorem powerInit_values (a : Nat) (e : Dword) {n : Dword} (ne : n ≠ 0) (k : Kernel) :
    (powerInit a e n k).n = n ∧ (powerInit a e n k).e = e ∧ (powerInit a e n k).base.toNat = a % n.toNat ∧
      (powerInit a e n k).r.toNat = 1 % n.toNat ∧ (powerInit a e n k).i.toNat = bitlen e.toNat := by
  refine ⟨rfl, rfl, toNat_reduce a ne, toNat_reduce 1 ne, ?_⟩
  have short : bitlen e.toNat ≤ 64 := bitlen_le e.isLt
  rw [powerInit, BitVec.toNat_ofNat]
  omega

/-- Accept establishes the invariant with every bit still to come. -/
theorem PowerInv.init (a : Nat) {e n : Dword} (ne : n ≠ 0) (fresh : k.iter.toNat = 0) :
    PowerInv a e.toNat n.toNat (powerInit a e n k) := by
  obtain ⟨modulus, exponent, base, result, index⟩ := powerInit_values a e ne k
  have count : (powerInit a e n k).iter.toNat = 0 := fresh
  have all : e.toNat / 2 ^ bitlen e.toNat = 0 := Nat.div_eq_of_lt (lt_two_pow_bitlen e.toNat)
  exact {
    modulus := by rw [modulus]
    exponent := by rw [exponent]
    base := base
    count := by rw [index, count, Nat.add_zero]
    result := by rw [result, index, all, modexp, pow_zero] }

/-- The bits consumed and those to come are at most 64. -/
theorem PowerInv.bitlen_le_max (h : PowerInv a e n k) : bitlen e ≤ Config.maxPowerSteps :=
  bitlen_le (h.exponent ▸ k.e.isLt)

theorem powerMore_iff (k : Kernel) : powerMore k = true ↔ k.i.toNat ≠ 0 := by
  rw [ne_eq, toNat_eq_zero_iff]
  simp [powerMore]

/-- The loop goes on while fewer bits are consumed than the exponent has. -/
theorem PowerInv.more_iff (h : PowerInv a e n k) : powerMore k = true ↔ k.iter.toNat < bitlen e := by
  have := h.count
  rw [powerMore_iff]
  omega

theorem PowerInv.iter_powerBody (h : PowerInv a e n k) (more : powerMore k = true) :
    (powerBody k).iter.toNat = k.iter.toNat + 1 := by
  have due := h.more_iff.1 more
  have short : bitlen e ≤ 64 := h.bitlen_le_max
  exact toNat_iter_succ (due.trans_le (short.trans (by decide)))

theorem toNat_i_powerBody (more : powerMore k = true) : (powerBody k).i.toNat + 1 = k.i.toNat := by
  have left := (powerMore_iff k).1 more
  simp only [powerBody]
  bv_omega

/-- The running result after an `iterate`, by the exponent's bit that it consumes. -/
theorem toNat_r_powerBody (ne : k.n ≠ 0) :
    (powerBody k).r.toNat =
      if k.e.toNat.testBit (powerBody k).i.toNat then
        k.r.toNat * k.r.toNat % k.n.toNat * k.base.toNat % k.n.toNat
      else k.r.toNat * k.r.toNat % k.n.toNat := by
  have choice : (powerBody k).r =
      if k.e.getLsbD (powerBody k).i.toNat then mulMod (mulMod k.r k.r k.n) k.base k.n
      else mulMod k.r k.r k.n := rfl
  rw [choice, BitVec.testBit_toNat, apply_ite BitVec.toNat, toNat_mulMod _ _ ne, toNat_mulMod _ _ ne]

/-- One `iterate` keeps the invariant. -/
theorem PowerInv.step (h : PowerInv a e n k) (ne : n ≠ 0) (more : powerMore k = true) :
    PowerInv a e n (powerBody k) where
  modulus := h.modulus
  exponent := h.exponent
  base := h.base
  count := by
    have index := toNat_i_powerBody more
    have count := h.count
    rw [h.iter_powerBody more]
    omega
  result := by
    have ne' : k.n ≠ 0 := mt (toNat_eq_zero_iff k.n).2 (h.modulus ▸ ne)
    rw [toNat_r_powerBody ne', h.modulus, h.exponent, h.base, h.result, ← toNat_i_powerBody more,
      div_two_pow_eq e (powerBody k).i.toNat, modexp_next_bit]

/-- At every point of the loop the running result is a remainder. -/
theorem PowerInv.result_lt (h : PowerInv a e n k) (pos : 0 < n) : k.r.toNat < n :=
  h.result ▸ modexp_lt a _ pos

/-- At the loop's end the running result is the power, and every bit is counted. -/
theorem PowerInv.done (h : PowerInv a e n k) (done : powerMore k = false) :
    k.r = BitVec.ofNat 64 (modexp a e n) ∧ k.r.toNat = modexp a e n ∧ k.iter.toNat = bitlen e := by
  have last : k.i.toNat = 0 := by
    rw [(powerMore_eq_false_iff k).1 done]
    rfl
  have power : k.r.toNat = modexp a e n := by rw [h.result, last, pow_zero, Nat.div_one]
  have count := h.count
  exact ⟨by rw [← power, BitVec.ofNat_toNat, BitVec.setWidth_eq], power, by omega⟩

/-! Euclid (42_gcd_egcd_modinv.md R143). -/

/-- Coefficients of opposite signs do not cancel in a division step (R146). -/
theorem natAbs_sub_mul_of_opposite {c0 c1 : Int} (signs : c0 * c1 ≤ 0) (q : Nat) :
    (c0 - q * c1).natAbs = c0.natAbs + q * c1.natAbs := by
  have product : (q * c1).natAbs = q * c1.natAbs := by rw [Int.natAbs_mul, Int.natAbs_natCast]
  obtain ⟨pos, neg⟩ | ⟨neg, pos⟩ := mul_nonpos_iff.1 signs
  · have := mul_nonpos_of_nonneg_of_nonpos q.cast_nonneg neg
    omega
  · have := mul_nonneg q.cast_nonneg pos
    omega

/-- A coefficient whose magnitude is below `2^64` fits its register (10_state.md R42). -/
theorem toInt_ofInt_coeff {c : Int} (fits : c.natAbs < 2 ^ 64) : (BitVec.ofInt 65 c).toInt = c :=
  BitVec.toInt_ofInt_eq_self (by decide) (by omega) (by omega)

/-- One column of coefficients in the middle of `euclid`: opposite signs, and a cross sum that stays the operand
(R146). -/
structure EuclidColumn (bound r0 r1 : Nat) (c0 c1 : Coeff) : Prop where
  signs : c0.toInt * c1.toInt ≤ 0
  cross : r0 * c1.toInt.natAbs + r1 * c0.toInt.natAbs = bound

theorem EuclidInv.columnS (h : EuclidInv a b k) : EuclidColumn b k.r0.toNat k.r1.toNat k.s0 k.s1 :=
  ⟨h.signS, h.crossS⟩

theorem EuclidInv.columnT (h : EuclidInv a b k) : EuclidColumn a k.r0.toNat k.r1.toNat k.t0 k.t1 :=
  ⟨h.signT, h.crossT⟩

section Column

variable {bound r0 r1 : Nat} {c0 c1 : Coeff}

/-- The cross sum after a division step, on the exact coefficient. -/
theorem EuclidColumn.cross_next (h : EuclidColumn bound r0 r1 c0 c1) :
    r1 * (c0.toInt - (r0 / r1 : Nat) * c1.toInt).natAbs + r0 % r1 * c1.toInt.natAbs = bound :=
  calc r1 * (c0.toInt - (r0 / r1 : Nat) * c1.toInt).natAbs + r0 % r1 * c1.toInt.natAbs
      = (r1 * (r0 / r1) + r0 % r1) * c1.toInt.natAbs + r1 * c0.toInt.natAbs := by
        rw [natAbs_sub_mul_of_opposite h.signs]; ring
    _ = bound := by rw [Nat.div_add_mod, h.cross]

/-- The new coefficient is at most the operand. -/
theorem EuclidColumn.natAbs_next_le (h : EuclidColumn bound r0 r1 c0 c1) (ne : r1 ≠ 0) :
    (c0.toInt - (r0 / r1 : Nat) * c1.toInt).natAbs ≤ bound :=
  calc _ ≤ r1 * (c0.toInt - (r0 / r1 : Nat) * c1.toInt).natAbs := Nat.le_mul_of_pos_left _ (Nat.pos_of_ne_zero ne)
    _ ≤ bound := by rw [← h.cross_next]; exact Nat.le_add_right _ _

/-- The register holds the new coefficient exactly (R146, assumption 9). -/
theorem EuclidColumn.toInt_nextCoeff (h : EuclidColumn bound r0 r1 c0 c1) (ne : r1 ≠ 0) (fits : bound < 2 ^ 64) :
    (nextCoeff (r0 / r1) c0 c1).toInt = c0.toInt - (r0 / r1 : Nat) * c1.toInt :=
  toInt_ofInt_coeff ((h.natAbs_next_le ne).trans_lt fits)

/-- A division step keeps the column. -/
theorem EuclidColumn.step (h : EuclidColumn bound r0 r1 c0 c1) (ne : r1 ≠ 0) (fits : bound < 2 ^ 64) :
    EuclidColumn bound r1 (r0 % r1) c1 (nextCoeff (r0 / r1) c0 c1) where
  signs := by
    have square : 0 ≤ (r0 / r1 : Nat) * (c1.toInt * c1.toInt) := mul_nonneg (Nat.cast_nonneg _) (mul_self_nonneg _)
    rw [h.toInt_nextCoeff ne fits]
    linarith [h.signs]
  cross := by rw [h.toInt_nextCoeff ne fits, h.cross_next]

end Column

theorem toNat_r1_euclidBody (k : Kernel) : (euclidBody k).r1.toNat = k.r0.toNat % k.r1.toNat := by
  have division := Nat.mod_eq_sub_div_mul (x := k.r0.toNat) (k := k.r1.toNat)
  have below := (Nat.mod_le k.r0.toNat k.r1.toNat).trans_lt k.r0.isLt
  simp only [euclidBody, BitVec.toNat_ofNat]
  rw [← division, Nat.mod_eq_of_lt below]

/-- Accept establishes the invariant with every division step still to come: each clause is an evaluation on the
coefficients 0 and 1. -/
theorem EuclidInv.init (a b : Dword) (fresh : k.iter.toNat = 0) : EuclidInv a.toNat b.toNat (euclidInit a b k) := by
  constructor <;> simp [euclidInit, fresh]

theorem euclidMore_iff (k : Kernel) : euclidMore k = true ↔ k.r1.toNat ≠ 0 := by
  rw [ne_eq, toNat_eq_zero_iff]
  simp [euclidMore]

/-- The loop goes on while fewer division steps are taken than the operands need. -/
theorem EuclidInv.more_iff (h : EuclidInv a b k) : euclidMore k = true ↔ k.iter.toNat < euclidSteps a b := by
  have left := euclidSteps_pos_iff k.r0.toNat k.r1.toNat
  have steps := h.steps
  rw [euclidMore_iff, ← left]
  omega

theorem EuclidInv.iter_euclidBody (h : EuclidInv a b k) (fitsB : b < 2 ^ 64) (more : euclidMore k = true) :
    (euclidBody k).iter.toNat = k.iter.toNat + 1 :=
  toNat_iter_succ ((h.more_iff.1 more).trans_le (euclidSteps_le a fitsB))

/-- One `iterate` keeps the invariant. -/
theorem EuclidInv.step (h : EuclidInv a b k) (fitsA : a < 2 ^ 64) (fitsB : b < 2 ^ 64) (more : euclidMore k = true) :
    EuclidInv a b (euclidBody k) := by
  have ne := (euclidMore_iff k).1 more
  have r0 : (euclidBody k).r0.toNat = k.r1.toNat := rfl
  have s0 : (euclidBody k).s0 = k.s1 := rfl
  have t0 : (euclidBody k).t0 = k.t1 := rfl
  have r1 := toNat_r1_euclidBody k
  have s1 : (euclidBody k).s1.toInt = _ := h.columnS.toInt_nextCoeff ne fitsB
  have t1 : (euclidBody k).t1.toInt = _ := h.columnT.toInt_nextCoeff ne fitsA
  have columnS : EuclidColumn b k.r1.toNat (euclidBody k).r1.toNat (euclidBody k).s0 (euclidBody k).s1 := by
    rw [r1]; exact h.columnS.step ne fitsB
  have columnT : EuclidColumn a k.r1.toNat (euclidBody k).r1.toNat (euclidBody k).t0 (euclidBody k).t1 := by
    rw [r1]; exact h.columnT.step ne fitsA
  have division :
      ((k.r0.toNat % k.r1.toNat : Nat) : Int) = k.r0.toNat - (k.r0.toNat / k.r1.toNat : Nat) * k.r1.toNat := by
    have parts := Nat.mod_add_div' k.r0.toNat k.r1.toNat
    rw [eq_sub_iff_add_eq]
    exact_mod_cast parts
  exact {
    row0 := h.row1
    row1 := by
      rw [s1, t1, r1, division, ← h.row0, ← h.row1]
      ring
    signS := columnS.signs
    signT := columnT.signs
    crossS := columnS.cross
    crossT := columnT.cross
    boundS0 := h.boundS1
    boundS1 := by rw [s1]; exact (h.columnS.natAbs_next_le ne).trans (le_max_left _ _)
    boundT0 := h.boundT1
    boundT1 := by rw [t1]; exact (h.columnT.natAbs_next_le ne).trans (le_max_left _ _)
    rest := by
      rw [h.rest, extendedGcd_rec _ ne, r0, r1, s0, t0, s1, t1]
      refine Prod.ext rfl (Prod.ext ?_ ?_) <;> ring
    steps := by
      rw [h.iter_euclidBody fitsB more, ← h.steps, euclidSteps_rec _ ne, r0, r1]
      omega }

/-- At the loop's end the registers hold the recursion's triple (R147), and every division step is counted. -/
theorem EuclidInv.done (h : EuclidInv a b k) (done : euclidMore k = false) :
    extendedGcd a b = (k.r0.toNat, k.s0.toInt, k.t0.toInt) ∧ k.iter.toNat = euclidSteps a b := by
  have last : k.r1.toNat = 0 := by
    rw [(euclidMore_eq_false_iff k).1 done]
    rfl
  constructor
  · rw [h.rest, last, extendedGcd_zero]
    simp
  · rw [← h.steps, last, euclidSteps_zero, Nat.add_zero]

end Sys2Proof.Machine
end

section
/-! The engine against `outcome` (40_command_lifecycle.md R113, R114, R118): a running command whose kernel registers
agree with its snapshot either commits `outcome(w)` or iterates towards it. -/

namespace Sys2Proof.Machine

variable {i : Instr} {s t : State} {ws : Writes} {w : Snapshot} {k : Kernel} {c : CmdError}

/-! What a command commits, by its word (40_command_lifecycle.md R114). -/

/-- The `ITER` a command commits (60_exceptions.md R217 for an error). -/
def CommandResult.steps : CommandResult → Nat
  | .error _ => 0
  | .ok ws => ws.n

theorem outcome_of_decode (h : decodeWord w.cmd = .ok i) : outcome w = commandOutcome i w := by
  simp only [outcome, h]

theorem outcome_of_illegal {e : DecodeError} (h : decodeWord w.cmd = .illegal e) : outcome w = .error .illCmd := by
  simp only [outcome, h]

/-! The commands with an error condition test their modulus. -/

theorem commandOutcome_modexp (src : OperandSource) (w : Snapshot) :
    commandOutcome (.modexp src) w =
      if w.m = 0 then .error .modZero
      else .ok { res := some (BitVec.ofNat 64 (modexp w.a.toNat w.b.toNat w.m.toNat)), n := bitlen w.b.toNat } := by
  simp only [commandOutcome, toNat_eq_zero_iff]

theorem commandOutcome_mulmod (src : OperandSource) (w : Snapshot) :
    commandOutcome (.mulmod src) w =
      if w.m = 0 then .error .modZero else .ok { res := some (mulMod w.a w.b w.m), n := 0 } := by
  simp only [commandOutcome, mulMod, toNat_eq_zero_iff]

theorem commandOutcome_fermat (src : OperandSource) (w : Snapshot) :
    commandOutcome (.fermat src) w =
      if w.a = 0 then .error .modZero
      else .ok {
        res := some (BitVec.ofNat 64 (modexp 2 (w.a.toNat - 1) w.a.toNat))
        prime := some (primeVerdict (modexp 2 (w.a.toNat - 1) w.a.toNat))
        n := bitlen (w.a.toNat - 1) } := by
  simp only [commandOutcome, toNat_eq_zero_iff]

theorem modexpResult_eq_ok (h : modexpResult s = .ok ws) :
    s.w.m ≠ 0 ∧ ws = { res := some s.k.r, n := s.k.iter.toNat } := by
  unfold modexpResult at h
  split at h
  · cases h
  · next ne => cases h; exact ⟨ne, rfl⟩

theorem mulmodResult_eq_ok (h : mulmodResult s = .ok ws) :
    s.w.m ≠ 0 ∧ ws = { res := some (mulMod s.w.a s.w.b s.w.m), n := 0 } := by
  unfold mulmodResult at h
  split at h
  · cases h
  · next ne => cases h; exact ⟨ne, rfl⟩

theorem fermatResult_eq_ok (h : fermatResult s = .ok ws) :
    s.w.a ≠ 0 ∧ ws = { res := some s.k.r, prime := some (primeVerdict s.k.r.toNat), n := s.k.iter.toNat } := by
  unfold fermatResult at h
  split at h
  · cases h
  · next ne => cases h; exact ⟨ne, rfl⟩

/-- No command counts more than 92 steps (70_reset_and_hazards.md R262). -/
theorem steps_commandOutcome_le (i : Instr) (w : Snapshot) : (commandOutcome i w).steps ≤ Config.maxEuclidSteps := by
  have power (e : Nat) (fits : e < 2 ^ 64) : bitlen e ≤ Config.maxEuclidSteps :=
    (bitlen_le fits).trans (by decide)
  cases i with
  | nop => exact Nat.zero_le _
  | modexp src =>
    rw [commandOutcome_modexp]
    split
    · exact Nat.zero_le _
    · exact power _ w.b.isLt
  | mulmod src =>
    rw [commandOutcome_mulmod]
    split <;> exact Nat.zero_le _
  | gcd src | egcd src => exact euclidSteps_le _ w.b.isLt
  | modinv src => exact euclidSteps_le _ w.m.isLt
  | fermat src =>
    rw [commandOutcome_fermat]
    split
    · exact Nat.zero_le _
    · exact power _ ((Nat.sub_le _ _).trans_lt w.a.isLt)

theorem steps_outcome_le (w : Snapshot) : (outcome w).steps ≤ Config.maxEuclidSteps := by
  cases hd : decodeWord w.cmd with
  | ok i => rw [outcome_of_decode hd]; exact steps_commandOutcome_le i w
  | illegal e => rw [outcome_of_illegal hd]; exact Nat.zero_le _

/-- `ITER` holds the committed count. -/
theorem toNat_iter_commit_outcome (w : Snapshot) (s : State) :
    (commit (outcome w) s).iter.toNat = (outcome w).steps := by
  have small := steps_outcome_le w
  cases h : outcome w with
  | error c => rfl
  | ok ws =>
    rw [h] at small
    exact Nat.mod_eq_of_lt (small.trans_lt (by decide))

/-! The agreement of kernel registers and snapshot, command by command (10_state.md R42). -/

/-- `KernelAgrees` for the command `i`. -/
def CommandAgrees (i : Instr) (w : Snapshot) (k : Kernel) : Prop :=
  match i with
  | .nop => True
  | .modexp _ => w.m ≠ 0 → PowerInv w.a.toNat w.b.toNat w.m.toNat k
  | .mulmod _ => True
  | .gcd _ => EuclidInv w.a.toNat w.b.toNat k
  | .egcd _ => EuclidInv w.a.toNat w.b.toNat k
  | .modinv _ => EuclidInv w.a.toNat w.m.toNat k
  | .fermat _ => w.a ≠ 0 → PowerInv 2 (w.a.toNat - 1) w.a.toNat k

theorem kernelAgrees_iff (h : decodeWord s.w.cmd = .ok i) : KernelAgrees s ↔ CommandAgrees i s.w s.k := by
  simp only [KernelAgrees, h]
  cases i <;> rfl

theorem kernelAgrees_of_illegal {e : DecodeError} (h : decodeWord s.w.cmd = .illegal e) : KernelAgrees s := by
  simp only [KernelAgrees, h]

/-- Accept makes the kernel registers agree. -/
theorem commandAgrees_kernelInit (h : decodeWord w.cmd = .ok i) (k : Kernel) : CommandAgrees i w (kernelInit w k) := by
  cases i with
  | nop | mulmod => trivial
  | modexp src =>
    intro ne
    rw [kernelInit_modexp h ne]
    exact PowerInv.init _ ne rfl
  | gcd src => rw [kernelInit_gcd h]; exact EuclidInv.init _ _ rfl
  | egcd src => rw [kernelInit_egcd h]; exact EuclidInv.init _ _ rfl
  | modinv src => rw [kernelInit_modinv h]; exact EuclidInv.init _ _ rfl
  | fermat src =>
    intro ne
    rw [kernelInit_fermat h ne, ← toNat_sub_one ne]
    exact PowerInv.init _ ne rfl

theorem kernelAgrees_accept (v : Word) (s : State) : KernelAgrees (accept v s) := by
  cases hd : decodeWord v with
  | ok i => exact (kernelAgrees_iff (s := accept v s) hd).2 (commandAgrees_kernelInit hd s.k)
  | illegal e => exact kernelAgrees_of_illegal (s := accept v s) hd

/-- While a command has steps due, `more` holds, and then only. -/
theorem CommandAgrees.more_iff (agrees : CommandAgrees i s.w s.k) (noError : kernelResult i s = .ok ws) :
    commandMore i s.k = true ↔ s.k.iter.toNat < (commandOutcome i s.w).steps := by
  cases i with
  | nop => simp [commandMore, commandOutcome, CommandResult.steps]
  | mulmod src =>
    rw [commandOutcome_mulmod]
    split <;> simp [commandMore, CommandResult.steps]
  | modexp src =>
    obtain ⟨ne, -⟩ := modexpResult_eq_ok noError
    rw [commandOutcome_modexp, if_neg ne]
    exact (agrees ne).more_iff
  | gcd src | egcd src | modinv src => exact EuclidInv.more_iff agrees
  | fermat src =>
    obtain ⟨ne, -⟩ := fermatResult_eq_ok noError
    rw [commandOutcome_fermat, if_neg ne]
    exact (agrees ne).more_iff

/-- An `iterate` keeps the agreement and counts one step. -/
theorem CommandAgrees.step (agrees : CommandAgrees i s.w s.k) (noError : kernelResult i s = .ok ws)
    (more : commandMore i s.k = true) :
    CommandAgrees i s.w (commandBody i s.k) ∧ (commandBody i s.k).iter.toNat = s.k.iter.toNat + 1 := by
  cases i with
  | nop | mulmod => cases more
  | modexp src =>
    obtain ⟨ne, -⟩ := modexpResult_eq_ok noError
    have inv := agrees ne
    exact ⟨fun _ => inv.step (mt (toNat_eq_zero_iff _).1 ne) more, inv.iter_powerBody more⟩
  | gcd src | egcd src =>
    exact ⟨EuclidInv.step agrees s.w.a.isLt s.w.b.isLt more, EuclidInv.iter_euclidBody agrees s.w.b.isLt more⟩
  | modinv src =>
    exact ⟨EuclidInv.step agrees s.w.a.isLt s.w.m.isLt more, EuclidInv.iter_euclidBody agrees s.w.m.isLt more⟩
  | fermat src =>
    obtain ⟨ne, -⟩ := fermatResult_eq_ok noError
    have inv := agrees ne
    exact ⟨fun _ => inv.step (mt (toNat_eq_zero_iff _).1 ne) more, inv.iter_powerBody more⟩

/-- An error of a command is its outcome, whatever the kernel registers hold. -/
theorem commandOutcome_of_error (h : kernelResult i s = .error c) : commandOutcome i s.w = .error c := by
  cases i with
  | nop | gcd | egcd | modinv => cases h
  | modexp src =>
    rw [commandOutcome_modexp]
    simp only [kernelResult, modexpResult] at h
    split at h
    · next zero => rw [if_pos zero, h]
    · cases h
  | mulmod src => rw [commandOutcome_mulmod]; exact h
  | fermat src =>
    rw [commandOutcome_fermat]
    simp only [kernelResult, fermatResult] at h
    split at h
    · next zero => rw [if_pos zero, h]
    · cases h

/-- With its loop done, a command commits its outcome (R118). -/
theorem CommandAgrees.kernelResult_eq (agrees : CommandAgrees i s.w s.k) (done : commandMore i s.k = false) :
    kernelResult i s = commandOutcome i s.w := by
  cases i with
  | nop => rfl
  | modexp src =>
    rw [commandOutcome_modexp]
    refine ite_congr rfl (fun _ => rfl) fun ne => ?_
    obtain ⟨result, -, count⟩ := (agrees ne).done done
    rw [result, count]
  | mulmod src => exact (commandOutcome_mulmod src s.w).symm
  | gcd src =>
    obtain ⟨triple, count⟩ := EuclidInv.done agrees done
    simp [kernelResult, gcdResult, commandOutcome, gcdOf, coprime, triple, count]
  | egcd src =>
    obtain ⟨triple, count⟩ := EuclidInv.done agrees done
    simp [kernelResult, egcdResult, commandOutcome, gcdOf, coprime, triple, count]
  | modinv src =>
    obtain ⟨triple, count⟩ := EuclidInv.done agrees done
    simp [kernelResult, modinvResult, commandOutcome, gcdOf, coprime, modularInverse, triple, count]
  | fermat src =>
    rw [commandOutcome_fermat]
    refine ite_congr rfl (fun _ => rfl) fun ne => ?_
    obtain ⟨result, residue, count⟩ := (agrees ne).done done
    rw [residue, result, count]

/-! The engine's turn on a running command, and its turns to the commit. -/

/-- While kernel registers and snapshot agree, the engine's turn commits `outcome(w)` where no step is due any more, and
else takes one of the steps due and keeps the agreement. -/
theorem engineTurn_of_agrees (run : s.phase = .run) (agrees : KernelAgrees s) :
    ((outcome s.w).steps ≤ s.k.iter.toNat ∧ engineTurn s = .next (commit (outcome s.w) s)) ∨
    (s.k.iter.toNat < (outcome s.w).steps ∧ ∃ k : Kernel, engineTurn s = .next { s with k := k } ∧
      KernelAgrees { s with k := k } ∧ k.iter.toNat = s.k.iter.toNat + 1) := by
  cases hd : decodeWord s.w.cmd with
  | illegal e =>
    rw [outcome_of_illegal hd, engineTurn_illegal run hd]
    exact .inl ⟨Nat.zero_le _, rfl⟩
  | ok i =>
    have agrees := (kernelAgrees_iff hd).1 agrees
    rw [outcome_of_decode hd, engineTurn_running ⟨run, hd⟩, exec_eq_engineStep]
    cases result : kernelResult i s with
    | error c =>
      rw [commandOutcome_of_error result]
      exact .inl ⟨Nat.zero_le _, rfl⟩
    | ok ws =>
      have due := agrees.more_iff result
      cases more : commandMore i s.k with
      | false =>
        left
        rw [← agrees.kernelResult_eq more, result] at due ⊢
        exact ⟨by simpa [more] using due, rfl⟩
      | true =>
        obtain ⟨agrees', count⟩ := agrees.step result more
        exact .inr ⟨due.1 more, _, rfl, (kernelAgrees_iff (s := { s with k := commandBody i s.k }) hd).2 agrees', count⟩

/-- Settles O21: the turn that leaves `RUN` is the commit of `engineTurn_of_agrees`. -/
theorem commitWritesTheOutcomeOfTheSnapshot : Obligations.CommitWritesTheOutcomeOfTheSnapshot := by
  intro s t inv run turn ends
  obtain ⟨-, commits⟩ | ⟨-, k, iterates, -⟩ := engineTurn_of_agrees run (inv.run run).kernel
  · cases turn.symm.trans commits
    rfl
  · cases turn.symm.trans iterates
    cases run.symm.trans ends

theorem core_run_succ (n : Nat) (h : step s = .next t) : core.run (n + 1) s = core.run n t := by
  simp only [Host.Core.run, core, h]

/-- Left to the engine, an agreeing command with `n` steps due runs through each of them and then commits
`outcome(w)`. -/
theorem core_run_of_agrees (n : Nat) (run : s.phase = .run) (alone : s.pending = []) (agrees : KernelAgrees s)
    (due : n = (outcome s.w).steps - s.k.iter.toNat) :
    (∃ k : Kernel, core.run (n + 1) s = .next (commit (outcome s.w) { s with k := k })) ∧
    ∀ j ≤ n, ∃ u : State, core.run j s = .next u ∧ u.phase = .run := by
  induction n generalizing s with
  | zero =>
    obtain ⟨-, commits⟩ | ⟨behind, -⟩ := engineTurn_of_agrees run agrees
    · refine ⟨⟨s.k, ?_⟩, fun j first => ?_⟩
      · rw [core_run_succ 0 ((step_empty alone).trans commits)]
        rfl
      · rw [Nat.le_zero.1 first]
        exact ⟨s, rfl, run⟩
    · omega
  | succ n ih =>
    obtain ⟨none, -⟩ | ⟨-, k, iterates, agrees', count⟩ := engineTurn_of_agrees run agrees
    · omega
    · have first := (step_empty alone).trans iterates
      obtain ⟨⟨k', commits⟩, running⟩ := ih (s := { s with k := k }) run alone agrees' (by simp only [count]; omega)
      refine ⟨⟨k', by rw [core_run_succ _ first, commits]⟩, fun j before => ?_⟩
      cases j with
      | zero => exact ⟨s, rfl, run⟩
      | succ j => rw [core_run_succ _ first]; exact running j (by omega)

/-- A commit writes nothing that accept wrote, but what both write. -/
theorem commit_accept (r : CommandResult) (v : Word) (s : State) (k : Kernel) :
    commit r { accept v s with k := k } = { commit r s with cmd := v, w := snapshot v s, k := k } := by
  cases r <;> rfl

/-- Settles O22: after accept every step of `outcome` is due. -/
theorem microStepsEndInTheBigStep : Obligations.MicroStepsEndInTheBigStep := by
  intro v s idle alone
  have fresh : (accept v s).k.iter.toNat = 0 := by rw [accept_k, kernelInit_iter]; rfl
  obtain ⟨⟨k, commits⟩, running⟩ :=
    core_run_of_agrees (s := accept v s) (outcome (snapshot v s)).steps rfl alone (kernelAgrees_accept v s)
      (by rw [fresh]; rfl)
  refine ⟨commit (outcome (snapshot v s)) { accept v s with k := k }, ?_, ?_, ?_⟩
  · rw [toNat_iter_commit_outcome]
    exact commits
  · rw [commit_accept]
  · rw [toNat_iter_commit_outcome]
    exact running

end Sys2Proof.Machine
end

section
/-! The life of a command (40_command_lifecycle.md): accept and overrun, the step of the running command, what it leaves
alone, the bounds of what a commit writes, and the table of zeros. -/

namespace Sys2Proof.Machine

variable {i : Instr} {s t : State} {src : OperandSource} {a b e : Nat} {k : Kernel} {v : Word}

/-! Accept and overrun (40_command_lifecycle.md R111, R112). -/

theorem busStep_write_cmd (v : Word) (s : State) :
    busStep (.write 0x00 .b4 v) s = { writeCmd v s with reply := some .ack } :=
  busStep_write_legal (r := .cmd) (k := 0) v s (by decide) (by decide)

theorem writeCmd_idle (v : Word) (idle : s.phase = .idle) : writeCmd v s = accept v s := by
  simp only [writeCmd, idle]

theorem writeCmd_run (v : Word) (run : s.phase = .run) : writeCmd v s = overrun s := by
  simp only [writeCmd, run]

theorem firstOperand_asField (v : Word) (s : State) :
    firstOperand (asField v) s = if v.getLsbD 4 then s.res else s.opa := by
  unfold asField
  split <;> rfl

/-- A decoded command's operand source is the one the word's own bit names (30_encoding.md R92). -/
theorem firstOperand_of_decode (h : decodeWord v = .ok i) (operand : i ≠ .nop) (source : i.source = src) (s : State) :
    firstOperand src s = firstOperand (asField v) s := by
  obtain ⟨-, nop | own⟩ := decodeWord_ok_fields h
  · exact absurd nop operand
  · rw [← source, own]

/-- The initial values of the datapath (42_gcd_egcd_modinv.md R143). -/
theorem euclidInit_values (a b : Dword) (k : Kernel) :
    (euclidInit a b k).r0 = a ∧ (euclidInit a b k).r1 = b ∧
      (euclidInit a b k).s0.toInt = 1 ∧ (euclidInit a b k).s1.toInt = 0 ∧
      (euclidInit a b k).t0.toInt = 0 ∧ (euclidInit a b k).t1.toInt = 1 := by
  have zero : (0 : Coeff).toInt = 0 := by decide
  have one : (1 : Coeff).toInt = 1 := by decide
  exact ⟨rfl, rfl, one, zero, zero, one⟩

/-- The initial values of the datapath of a `FERMAT` (41_fermat.md R131). -/
theorem powerInit_fermat_values {c : Dword} (ne : c ≠ 0) (k : Kernel) :
    (powerInit 2 (c - 1) c k).n = c ∧ (powerInit 2 (c - 1) c k).e.toNat = c.toNat - 1 ∧
      (powerInit 2 (c - 1) c k).base.toNat = 2 % c.toNat ∧ (powerInit 2 (c - 1) c k).r.toNat = 1 % c.toNat ∧
      (powerInit 2 (c - 1) c k).i.toNat = bitlen (c.toNat - 1) := by
  obtain ⟨modulus, exponent, rest⟩ := powerInit_values 2 (c - 1) ne k
  rw [toNat_sub_one ne] at rest
  exact ⟨modulus, (congrArg BitVec.toNat exponent).trans (toNat_sub_one ne), rest⟩

/-- Settles O4: the write is `accept`, and the kernel registers are those of the command's datapath. -/
theorem cmdWriteWhileIdleAccepts : Obligations.CmdWriteWhileIdleAccepts := by
  intro s v idle
  refine ⟨kernelInit (snapshot v s) s.k, ?_, kernelInit_iter _ _, fun src h ne => ?_, fun src h ne => ?_,
    fun src h => ?_, fun src h => ?_⟩
  · rw [busStep_write_cmd, writeCmd_idle v idle, ← firstOperand_asField]
    rfl
  · rw [kernelInit_modexp (w := snapshot v s) h ne, firstOperand_of_decode (src := src) h nofun rfl]
    exact powerInit_values _ _ ne _
  · rw [firstOperand_of_decode (src := src) h nofun rfl] at ne ⊢
    rw [kernelInit_fermat (w := snapshot v s) h ne]
    exact powerInit_fermat_values ne _
  · obtain h | h := h
    · rw [kernelInit_gcd (w := snapshot v s) h, firstOperand_of_decode (src := src) h nofun rfl]
      exact euclidInit_values _ _ _
    · rw [kernelInit_egcd (w := snapshot v s) h, firstOperand_of_decode (src := src) h nofun rfl]
      exact euclidInit_values _ _ _
  · rw [kernelInit_modinv (w := snapshot v s) h, firstOperand_of_decode (src := src) h nofun rfl]
    exact euclidInit_values _ _ _

/-- Settles O5: the write is `overrun`. -/
theorem cmdWriteWhileRunningOverruns : Obligations.CmdWriteWhileRunningOverruns := by
  intro s v run
  rw [busStep_write_cmd, writeCmd_run v run]
  rfl

/-! The running command's step (40_command_lifecycle.md R113, R116). -/

theorem tableWord_toNat (w : Word) : tableWord 32 w.toNat = w := by
  rw [tableWord, Nat.mod_eq_of_lt w.isLt, BitVec.ofNat_toNat, BitVec.setWidth_eq]

/-- The word that `withFetchWord` places is running, and nothing else is scheduled. -/
theorem withFetchWord_encode (i : Instr) (s : State) :
    Running i (s.withFetchWord 32 (encode i).toNat) ∧ (s.withFetchWord 32 (encode i).toNat).pending = [] := by
  rw [State.withFetchWord, placeWord, tableWord_toNat]
  exact ⟨⟨rfl, decodeWord_encode i⟩, rfl⟩

theorem step_running (running : Running i s) (alone : s.pending = []) : step s = exec i s :=
  (step_empty alone).trans (engineTurn_running running)

/-- Settles O6: the step is the engine's turn, and that is the running command's. -/
theorem stepRunsTheRunningCommand : Obligations.StepRunsTheRunningCommand := by
  refine ⟨fun i s => step_running, fun i s rest running scheduled => ?_, fun i s => ?_⟩
  · rw [step_scheduled scheduled, perform]
    exact engineTurn_running running
  · obtain ⟨running, alone⟩ := withFetchWord_encode i s
    exact step_running running alone

theorem exec_nop (s : State) :
    exec .nop s = .next { s with done := true, err := none, iter := 0, phase := .idle } :=
  exec_eq_engineStep .nop s

/-- Settles O8: a `NOP` has no loop and names no result. -/
theorem nopOnlyCompletes : Obligations.NopOnlyCompletes := by
  refine ⟨exec_nop, fun s v word => ?_⟩
  have decoded : decodeWord v = .ok .nop := by obtain rfl | rfl := word <;> decide
  exact (engineTurn_running (s := accept v s) ⟨rfl, decoded⟩).trans (exec_nop _)

/-- Settles O20: the error entry and the commit leave `RUN`, so the step is an `iterate`. -/
theorem iterateChangesHiddenStateOnly : Obligations.IterateChangesHiddenStateOnly := by
  intro i s t _ h runs
  obtain ⟨c, -, rfl⟩ | ⟨ws, -, -, rfl⟩ | ⟨ws, -, -, rfl⟩ := exec_cases h
  · cases runs
  · rfl
  · cases runs

/-! The frame of a command (40_command_lifecycle.md R117). -/

/-- What no command writes. -/
theorem exec_frame (h : exec i s = .next t) :
    t.opa = s.opa ∧ t.opb = s.opb ∧ t.opm = s.opm ∧ t.cmd = s.cmd ∧ t.ovr = s.ovr ∧ t.ie = s.ie ∧ t.w = s.w ∧
      t.pending = s.pending ∧ t.reply = s.reply := by
  obtain ⟨c, -, rfl⟩ | ⟨ws, -, -, rfl⟩ | ⟨ws, -, -, rfl⟩ := exec_cases h <;>
    exact ⟨rfl, rfl, rfl, rfl, rfl, rfl, rfl, rfl, rfl⟩

/-- A step of a command keeps the results, or commits what the command names. -/
theorem exec_results (h : exec i s = .next t) :
    t.results = s.results ∨ ∃ ws, kernelResult i s = .ok ws ∧ t = commitOk ws s := by
  obtain ⟨c, -, rfl⟩ | ⟨ws, -, -, rfl⟩ | ⟨ws, result, -, rfl⟩ := exec_cases h
  · exact .inl rfl
  · exact .inl rfl
  · exact .inr ⟨ws, result, rfl⟩

theorem exec_keeps_res (h : exec i s = .next t)
    (other : i = .nop ∨ (∃ src, i = .gcd src) ∨ (∃ src, i = .egcd src)) : t.res = s.res := by
  obtain same | ⟨ws, result, rfl⟩ := exec_results h
  · exact congrArg Results.res same
  · obtain keeps | names := kernelResult_res result
    · rw [commitOk_res, keeps, Option.getD_none]
    · obtain rfl | ⟨src, rfl⟩ | ⟨src, rfl⟩ := other <;> simp at names

theorem exec_keeps_gcd (h : exec i s = .next t)
    (other : i = .nop ∨ (∃ src, i = .modexp src) ∨ (∃ src, i = .mulmod src) ∨ (∃ src, i = .fermat src)) :
    t.gcd = s.gcd ∧ t.coprime = s.coprime := by
  obtain same | ⟨ws, result, rfl⟩ := exec_results h
  · exact ⟨congrArg Results.gcd same, congrArg Results.coprime same⟩
  · obtain ⟨keepsG, keepsC⟩ | names := kernelResult_gcd result
    · rw [commitOk_gcd, commitOk_coprime, keepsG, keepsC]
      exact ⟨rfl, rfl⟩
    · obtain rfl | ⟨src, rfl⟩ | ⟨src, rfl⟩ | ⟨src, rfl⟩ := other <;> simp at names

theorem exec_keeps_coefficients (h : exec i s = .next t) (noEgcd : ∀ src, i ≠ .egcd src)
    (noModinv : ∀ src, i ≠ .modinv src) : t.ex = s.ex ∧ t.ey = s.ey ∧ t.xs = s.xs ∧ t.ys = s.ys := by
  obtain same | ⟨ws, result, rfl⟩ := exec_results h
  · exact ⟨congrArg Results.ex same, congrArg Results.ey same, congrArg Results.xs same, congrArg Results.ys same⟩
  · obtain ⟨keepsX, keepsY⟩ | ⟨src, egcd | modinv⟩ := kernelResult_coefficients result
    · rw [commitOk_ex, commitOk_ey, commitOk_xs, commitOk_ys, keepsX, keepsY]
      exact ⟨rfl, rfl, rfl, rfl⟩
    · exact absurd egcd (noEgcd src)
    · exact absurd modinv (noModinv src)

theorem exec_keeps_prime (h : exec i s = .next t) (noFermat : ∀ src, i ≠ .fermat src) : t.prime = s.prime := by
  obtain same | ⟨ws, result, rfl⟩ := exec_results h
  · exact congrArg Results.prime same
  · obtain keeps | ⟨src, fermat⟩ := kernelResult_prime result
    · rw [commitOk_prime, keeps, Option.getD_none]
    · exact absurd fermat (noFermat src)

/-- The bytes of a place in the window are unchanged where the registers with a row there are. -/
theorem readByte_congr_place {place : Nat → Prop} (regs : List Reg)
    (map : ∀ row ∈ registerMap, ∀ k < row.reg.bytes, place (row.offset + k) → row.reg ∈ regs)
    (same : ∀ r ∈ regs, regValue r t = regValue r s) {off : Nat} (here : place off) :
    readByte off t = readByte off s := by
  cases lookup : regAt off with
  | none => rw [readByte_of_regAt_none lookup, readByte_of_regAt_none lookup]
  | some found =>
    obtain ⟨r, k⟩ := found
    obtain ⟨row, mem, rfl, rfl, inRow⟩ := regAt_some lookup
    rw [readByte_of_regAt lookup, readByte_of_regAt lookup, same _ (map row mem k inRow here)]

/-- Settles O19: the fields by what each command names, and the bytes by the registers that lie at each place. -/
theorem commandsWriteOnlyTheirDestinations : Obligations.CommandsWriteOnlyTheirDestinations := by
  intro i s t h
  refine ⟨exec_frame h, exec_keeps_res h, exec_keeps_gcd h, exec_keeps_coefficients h, exec_keeps_prime h,
    fun off => ?_, fun other off low high => ?_, fun other off low high => ?_, fun noEgcd noModinv off low high => ?_⟩
  · obtain ⟨opa, opb, opm, cmd, -, ie, -⟩ := exec_frame h
    exact readByte_congr_place
      (place := fun off => off < 0x04 ∨ (0x08 ≤ off ∧ off < 0x0C) ∨ (0x10 ≤ off ∧ off < 0x30) ∨ 0x50 ≤ off)
      [.cmd, .ctrl, .opa, .opb, .opm, .id] (by decide) (by simp [regValue, ctrlWord, opa, opb, opm, cmd, ie])
  · have res := exec_keeps_res h other
    exact readByte_congr_place (place := fun off => 0x30 ≤ off ∧ off < 0x38) [.res] (by decide)
      (by simp [regValue, res]) ⟨low, high⟩
  · obtain ⟨gcd, -⟩ := exec_keeps_gcd h other
    exact readByte_congr_place (place := fun off => 0x38 ≤ off ∧ off < 0x40) [.gcd] (by decide)
      (by simp [regValue, gcd]) ⟨low, high⟩
  · obtain ⟨ex, ey, -⟩ := exec_keeps_coefficients h noEgcd noModinv
    exact readByte_congr_place (place := fun off => 0x40 ≤ off ∧ off < 0x50) [.ex, .ey] (by decide)
      (by simp [regValue, ex, ey]) ⟨low, high⟩

/-! Bounds of the committed results (40_command_lifecycle.md R120). -/

/-- A step that ends a command without error commits what its kernel registers hold, its loop done. -/
theorem exec_commits (h : exec i s = .next t) (run : s.phase = .run) (ends : t.phase = .idle) (noError : t.err = none) :
    ∃ ws, kernelResult i s = .ok ws ∧ commandMore i s.k = false ∧ t = commitOk ws s := by
  obtain ⟨c, -, rfl⟩ | ⟨ws, -, -, rfl⟩ | commits := exec_cases h
  · cases noError
  · cases run.symm.trans ends
  · exact commits

/-- The register and its sign flag hold every integer of magnitude below `2^64` (00_scope.md R8). -/
theorem tc65Value_tc65 {z : Int} (fits : z.natAbs < 2 ^ 64) : tc65Value (tc65Low z) (tc65Sign z) = z := by
  simp only [tc65Value, tc65Low, tc65Sign, BitVec.toNat_ofInt, decide_eq_true_eq]
  split <;> omega

theorem EuclidInv.gcd_le (h : EuclidInv a b k) (done : euclidMore k = false) : k.r0.toNat ≤ max a b := by
  obtain ⟨triple, -⟩ := h.done done
  have divisor : k.r0.toNat = Nat.gcd a b := by rw [← gcdOf_eq_gcd, gcdOf, triple]
  rw [divisor]
  obtain rfl | pos := b.eq_zero_or_pos
  · rw [Nat.gcd_zero_right]
    exact le_max_left _ _
  · exact (Nat.gcd_le_right a pos).trans (le_max_right _ _)

/-- The coefficients, as committed, keep magnitudes below `2^64` (R146). -/
theorem EuclidInv.coefficients_lt (h : EuclidInv a b k) (fitsA : a < 2 ^ 64) (fitsB : b < 2 ^ 64) :
    (tc65Value (tc65Low k.s0.toInt) (tc65Sign k.s0.toInt)).natAbs < 2 ^ 64 ∧
    (tc65Value (tc65Low k.t0.toInt) (tc65Sign k.t0.toInt)).natAbs < 2 ^ 64 := by
  have s0 : k.s0.toInt.natAbs < 2 ^ 64 := h.boundS0.trans_lt (max_lt fitsB (by decide))
  have t0 : k.t0.toInt.natAbs < 2 ^ 64 := h.boundT0.trans_lt (max_lt fitsA (by decide))
  rw [tc65Value_tc65 s0, tc65Value_tc65 t0]
  exact ⟨s0, t0⟩

/-- `rem` is the library's remainder with the sign of the dividend (00_scope.md R8). -/
theorem truncRem_eq_tmod (v : Int) (m : Nat) : truncRem v m = Int.tmod v m := by
  have nonneg (l : Nat) : truncRem l m = Int.tmod l m := by
    obtain rfl | pos := l.eq_zero_or_pos
    · simp [truncRem]
    · rw [truncRem, Int.sign_eq_one_of_pos (Int.natCast_pos.2 pos), one_mul, Int.natAbs_natCast, Int.ofNat_tmod]
  obtain ⟨l, rfl | rfl⟩ := Int.eq_nat_or_neg v
  · exact nonneg l
  · rw [Int.neg_tmod, ← nonneg, truncRem, truncRem, Int.sign_neg, Int.natAbs_neg, neg_mul]

/-- The normalised coefficient is the remainder that is not negative (42_gcd_egcd_modinv.md R151). -/
theorem inverseOf_eq_emod (x : Int) {m : Nat} (ne : m ≠ 0) : inverseOf x m = x % m := by
  have nonneg := Int.emod_nonneg x (Int.natCast_ne_zero.2 ne)
  have below := Int.emod_lt_of_pos x (Int.natCast_pos.2 (Nat.pos_of_ne_zero ne))
  simp only [inverseOf, if_neg ne, truncRem_eq_tmod, Int.tmod_eq_emod, Int.natAbs_natCast]
  split <;> split <;> omega

/-- A committed inverse is below its modulus, and 0 for the modulus 0. -/
theorem toNat_ofInt_inverseOf_lt (x : Int) (m : Dword) :
    (BitVec.ofInt 64 (inverseOf x m.toNat)).toNat < max m.toNat 1 := by
  by_cases zero : m.toNat = 0
  · simp [inverseOf, zero]
  · have nonneg := Int.emod_nonneg x (Int.natCast_ne_zero.2 zero)
    have below := Int.emod_lt_of_pos x (Int.natCast_pos.2 (Nat.pos_of_ne_zero zero))
    have fits := m.isLt
    rw [BitVec.toNat_ofInt, inverseOf_eq_emod x zero, Int.emod_eq_of_lt nonneg (by omega)]
    omega

/-- Settles O28: the commit writes the registers of a loop done under the invariant, and each bound is one of theirs. -/
theorem committedResultsFitTheirBounds : Obligations.CommittedResultsFitTheirBounds := by
  intro i s t inv running h ends noError
  obtain ⟨run, decoded⟩ := running
  have agrees := (kernelAgrees_iff decoded).1 (inv.run run).kernel
  obtain ⟨ws, result, done, rfl⟩ := exec_commits h run ends noError
  have pos {m : Dword} (ne : m ≠ 0) : 0 < m.toNat := Nat.pos_of_ne_zero (mt (toNat_eq_zero_iff m).1 ne)
  refine ⟨?_, ?_, ?_, ?_, ?_⟩
  · rintro (⟨src, rfl⟩ | ⟨src, rfl⟩ | ⟨src, rfl⟩)
    · obtain ⟨ne, rfl⟩ := modexpResult_eq_ok result
      exact ((agrees ne).result_lt (pos ne)).trans_le (le_max_left _ _)
    · obtain ⟨ne, rfl⟩ := mulmodResult_eq_ok result
      refine lt_of_lt_of_le ?_ (le_max_left _ _)
      rw [commitOk_res, Option.getD_some, toNat_mulMod _ _ ne]
      exact Nat.mod_lt _ (pos ne)
    · cases result
      exact toNat_ofInt_inverseOf_lt _ s.w.m
  · rintro ⟨src, rfl⟩
    obtain ⟨ne, rfl⟩ := fermatResult_eq_ok result
    exact (agrees ne).result_lt (pos ne)
  · rintro (⟨src, rfl⟩ | ⟨src, rfl⟩) <;> cases result <;> exact EuclidInv.gcd_le agrees done
  · rintro ⟨src, rfl⟩
    cases result
    exact EuclidInv.gcd_le agrees done
  · rintro (⟨src, rfl⟩ | ⟨src, rfl⟩) <;> cases result
    · exact EuclidInv.coefficients_lt agrees s.w.a.isLt s.w.b.isLt
    · exact EuclidInv.coefficients_lt agrees s.w.a.isLt s.w.m.isLt

/-! The table of zeros (40_command_lifecycle.md R122). -/

theorem modexp_zero_exponent (a n : Nat) : modexp a 0 n = 1 % n := rfl

theorem modexp_zero_base (ne : e ≠ 0) (n : Nat) : modexp 0 e n = 0 := by
  rw [modexp, zero_pow ne, Nat.zero_mod]

/-- With the first operand 0 the recursion is one exchange. -/
theorem extendedGcd_zero_left (ne : b ≠ 0) : extendedGcd 0 b = (b, 0, 1) := by
  simp [extendedGcd_rec 0 ne, extendedGcd_zero]

theorem euclidSteps_zero_left (ne : b ≠ 0) : euclidSteps 0 b = 1 := by
  simp [euclidSteps_rec 0 ne, euclidSteps_zero]

/-- A zero operand is never coprime (42_gcd_egcd_modinv.md R142). -/
theorem coprime_zero_right (a : Nat) : coprime a 0 = false := by simp [coprime, coprimeVerdict]

theorem coprime_zero_left (b : Nat) : coprime 0 b = false := by simp [coprime, coprimeVerdict]

/-- Settles O29: each row by the recursion's value, the power's or the product's at that zero. -/
theorem zeroOperandsGiveTheTabledResults : Obligations.ZeroOperandsGiveTheTabledResults := by
  intro w src
  simp only [← toNat_eq_zero_iff, ne_eq]
  refine ⟨fun m => ?_, fun m => ?_, fun m b => ?_, fun m a b => ?_, fun m ab => ?_, fun a => ?_, fun a => ?_,
    fun b => ?_, fun a b => ?_, fun m => ?_, fun a m => ?_⟩
  · simp [commandOutcome, m]
  · simp [commandOutcome, m]
  · simp [commandOutcome, m, b, modexp_zero_exponent, bitlen_zero]
  · simp [commandOutcome, m, a, modexp_zero_base b]
  · obtain zero | zero := ab <;> simp [commandOutcome, m, zero]
  · simp [commandOutcome, a]
  · simp [commandOutcome, a, modexp_zero_exponent, bitlen_zero, primeVerdict]
  · constructor <;> simp [commandOutcome, b, gcdOf, extendedGcd_zero, euclidSteps_zero, coprime_zero_right]
  · constructor <;> simp [commandOutcome, a, gcdOf, extendedGcd_zero_left b, euclidSteps_zero_left b, coprime_zero_left]
  · simp [commandOutcome, m, gcdOf, modularInverse, inverseOf, extendedGcd_zero, euclidSteps_zero, coprime_zero_right]
  · simp [commandOutcome, a, gcdOf, modularInverse, inverseOf, truncRem, extendedGcd_zero_left m,
      euclidSteps_zero_left m, coprime_zero_left]

end Sys2Proof.Machine
end

section
/-! `FERMAT` (41_fermat.md): what it commits with its loop done, and what its verdict says of a number. -/

namespace Sys2Proof.Machine

variable {i : Instr} {s : State} {a e n c : Nat} {k : Kernel}

/-! The commit (41_fermat.md R130, R131). -/

/-- With its loop done, the step of an agreeing command commits the command's outcome (40_command_lifecycle.md R118). -/
theorem CommandAgrees.exec_eq_commit (agrees : CommandAgrees i s.w s.k) (done : commandMore i s.k = false) :
    exec i s = .next (commit (commandOutcome i s.w) s) := by
  rw [exec_eq_engineStep, agrees.kernelResult_eq done, done]
  cases commandOutcome i s.w <;> rfl

/-- `ITER` holds the length of a power's exponent. -/
theorem PowerInv.toNat_ofNat_bitlen (h : PowerInv a e n k) : (BitVec.ofNat 32 (bitlen e)).toNat = bitlen e := by
  have short : bitlen e ≤ 64 := h.bitlen_le_max
  rw [BitVec.toNat_ofNat]
  omega

/-- Settles O11: with the bit index at 0 the step is the commit of the command's outcome. -/
theorem fermatCommitsResidueAndVerdict : Obligations.FermatCommitsResidueAndVerdict := by
  intro src s ne index inv
  refine ⟨BitVec.ofNat 64 (modexp 2 (s.w.a.toNat - 1) s.w.a.toNat), BitVec.ofNat 32 (bitlen (s.w.a.toNat - 1)),
    toNat_ofNat_mod ne _, inv.toNat_ofNat_bitlen, ?_⟩
  have agrees : CommandAgrees (.fermat src) s.w s.k := fun _ => inv
  rw [agrees.exec_eq_commit ((powerMore_eq_false_iff s.k).2 index), commandOutcome_fermat, if_neg ne]
  rfl

/-! The verdict on a number (41_fermat.md R130, R132). -/

theorem fermatAccepts_iff (ne : c ≠ 0) : fermatAccepts c = true ↔ 2 ^ (c - 1) % c = 1 := by
  simp [fermatAccepts, primeVerdict, modexp, ne]

/-- An even number leaves an even remainder of a power of 2, which is not 1. -/
theorem fermatAccepts_eq_false_of_even (two : 2 ≤ c) (even : c % 2 = 0) : fermatAccepts c = false := by
  have residueEven : 2 ^ (c - 1) % c % 2 = 0 := by
    rw [Nat.mod_mod_of_dvd _ (Nat.dvd_of_mod_eq_zero even), ← Nat.dvd_iff_mod_eq_zero]
    exact dvd_pow_self 2 (by omega)
  rw [← Bool.not_eq_true, fermatAccepts_iff (by omega)]
  omega

/-- A number `c` is accepted where some power of 2 that is 1 modulo `c` has an exponent that divides `c - 1`. -/
theorem fermatAccepts_of_modEq (large : 1 < c) (period : 2 ^ e ≡ 1 [MOD c]) (divides : e ∣ c - 1) :
    fermatAccepts c = true := by
  obtain ⟨q, exponent⟩ := divides
  have power : (2 ^ e) ^ q ≡ 1 [MOD c] := by simpa only [one_pow] using period.pow q
  rw [fermatAccepts_iff (by omega), exponent, pow_mul]
  exact Nat.mod_eq_of_modEq power large

/-- Fermat's little theorem. -/
theorem fermatAccepts_of_prime (prime : c.Prime) (odd : c ≠ 2) : fermatAccepts c = true := by
  have coprime : Nat.Coprime 2 c := (Nat.coprime_primes Nat.prime_two prime).2 odd.symm
  have fermat : 2 ^ (c - 1) ≡ 1 [MOD c] := Nat.totient_prime prime ▸ Nat.ModEq.pow_totient coprime
  exact fermatAccepts_of_modEq prime.one_lt fermat dvd_rfl

/-- `2^10 = 3 * 341 + 1`, and 10 divides 340. -/
theorem fermatAccepts_341 : fermatAccepts 341 = true :=
  fermatAccepts_of_modEq (e := 10) (by decide) (by decide) (by decide)

/-- Settles O30: an even remainder is not 1, an odd prime is Fermat's little theorem, and 341 is `11 * 31`. -/
theorem fermatVerdictIsNotPrimality : Obligations.FermatVerdictIsNotPrimality :=
  ⟨fun _ two even => fermatAccepts_eq_false_of_even two even, fun _ prime odd => fermatAccepts_of_prime prime odd,
    fermatAccepts_341, Nat.not_prime_mul (a := 11) (b := 31) (by decide) (by decide)⟩

end Sys2Proof.Machine
end

section
/-! `GCD`, `EGCD` and `MODINV` (42_gcd_egcd_modinv.md): the recursion of R144 and its bounds, the iteration of R143
against it, and what the three commands commit with their loop done. -/

namespace Sys2Proof.Machine

variable {i : Instr} {s : State} {ws : Writes} {a b m n j : Nat} {k : Kernel}

/-! The recursion (42_gcd_egcd_modinv.md R144). -/

/-- JRSA's contract of the extended gcd. -/
theorem extendedGcd_bezout (a b : Nat) :
    (a : Int) * (extendedGcd a b).2.1 + b * (extendedGcd a b).2.2 = (extendedGcd a b).1 := by
  induction b using Nat.strong_induction_on generalizing a with
  | _ b ih =>
    by_cases zero : b = 0
    · simp [zero, extendedGcd_zero]
    · have child := ih (a % b) (Nat.mod_lt a (Nat.pos_of_ne_zero zero)) b
      have division : ((a % b : Nat) : Int) + (a / b : Nat) * b = a := by exact_mod_cast Nat.mod_add_div' a b
      rw [extendedGcd_rec a zero]
      linear_combination child - (extendedGcd b (a % b)).2.2 * division

/-- Settles O25: the contract and the divisor by induction on the recursion, whose two lines are its equations. -/
theorem extendedGcdMeetsItsContract : Obligations.ExtendedGcdMeetsItsContract := by
  refine fun a b => ⟨extendedGcd_bezout a b, gcdOf_eq_gcd a b, fun zero => ?_, extendedGcd_rec a⟩
  rw [zero, extendedGcd_zero]

/-! The bounds of the coefficients and of the division steps (42_gcd_egcd_modinv.md R146). -/

/-- The second coefficient is the one that grows: the child's two bounds are `a % b` and `b`, and the quotient puts them
together to `a`. Where the remainder is 0 the child is `(b, 1, 0)`. -/
theorem extendedGcd_bounds (a b : Nat) :
    (extendedGcd a b).2.1.natAbs ≤ max b 1 ∧ (extendedGcd a b).2.2.natAbs ≤ max a 1 := by
  induction b using Nat.strong_induction_on generalizing a with
  | _ b ih =>
    by_cases zero : b = 0
    · simp [zero, extendedGcd_zero]
    · rw [extendedGcd_rec a zero]
      by_cases last : a % b = 0
      · simp [last, extendedGcd_zero]
      · obtain ⟨first, second⟩ := ih (a % b) (Nat.mod_lt a (Nat.pos_of_ne_zero zero)) b
        rw [max_eq_left (Nat.pos_of_ne_zero last)] at first
        rw [max_eq_left (Nat.pos_of_ne_zero zero)] at second
        refine ⟨second.trans (le_max_left _ _), ?_⟩
        calc ((extendedGcd b (a % b)).2.1 - (a / b : Nat) * (extendedGcd b (a % b)).2.2).natAbs
            ≤ (extendedGcd b (a % b)).2.1.natAbs + a / b * (extendedGcd b (a % b)).2.2.natAbs := by
              rw [← Int.natAbs_natCast (a / b), ← Int.natAbs_mul, Int.natAbs_natCast]
              exact Int.natAbs_sub_le _ _
          _ ≤ a % b + a / b * b := Nat.add_le_add first (Nat.mul_le_mul_left _ second)
          _ = a := Nat.mod_add_div' a b
          _ ≤ max a 1 := le_max_left _ _

/-- Consecutive Fibonacci numbers take a division step for each index: no quotient is more than 1. -/
theorem euclidSteps_fib (n : Nat) : euclidSteps (Nat.fib (n + 3)) (Nat.fib (n + 2)) = n + 1 := by
  induction n with
  | zero => rfl
  | succ n ih =>
    have remainder : Nat.fib (n + 4) % Nat.fib (n + 3) = Nat.fib (n + 2) := by
      rw [Nat.fib_add_two, Nat.add_mod_right, Nat.mod_eq_of_lt (Nat.fib_lt_fib_succ (Nat.le_add_left 2 n))]
    have ne : Nat.fib (n + 3) ≠ 0 := (Nat.fib_pos.2 (Nat.succ_pos _)).ne'
    rw [euclidSteps_rec _ ne, remainder, ih]

/-- With the smaller operand first, the first step is an exchange. -/
theorem euclidSteps_of_lt (less : a < b) : euclidSteps a b = euclidSteps b a + 1 := by
  rw [euclidSteps_rec a (Nat.ne_zero_of_lt less), Nat.mod_eq_of_lt less]

/-- Settles O26: the pair that reaches 92 steps is the two largest 64-bit Fibonacci numbers, of indices 92 and 93. -/
theorem bezoutCoefficientsAndStepsAreBounded : Obligations.BezoutCoefficientsAndStepsAreBounded := by
  have fib92 : Nat.fib 92 = 7540113804746346429 := by norm_num
  have fib93 : Nat.fib 93 = 12200160415121876738 := by norm_num
  have steps := euclidSteps_fib 90
  rw [fib92, fib93] at steps
  refine ⟨extendedGcd_bounds, fun a b _ fits => euclidSteps_le a fits, ?_, steps⟩
  rw [euclidSteps_of_lt (by decide), steps]

/-! The iteration (42_gcd_egcd_modinv.md R143). -/

/-- A coefficient that fits its register is held exactly (10_state.md R42). -/
theorem toInt_nextCoeff {q : Nat} {c0 c1 : Coeff} (low : -(2 ^ 64) ≤ c0.toInt - q * c1.toInt)
    (high : c0.toInt - q * c1.toInt < 2 ^ 64) : (nextCoeff q c0 c1).toInt = c0.toInt - q * c1.toInt :=
  BitVec.toInt_ofInt_eq_self (by decide) low high

/-- Where `more` holds and the command has no error, its step is an `iterate`. -/
theorem exec_of_more (result : kernelResult i s = .ok ws) (more : commandMore i s.k = true) :
    exec i s = .next { s with k := commandBody i s.k } := by
  rw [exec_eq_engineStep, result, more, engineStep_more]

/-- Settles O16: the step is `euclidBody`, whose new remainder and coefficients are exact. -/
theorem euclidIterateDividesOnce : Obligations.EuclidIterateDividesOnce := by
  rintro src s q ne rfl lowS highS lowT highT
  refine ⟨(euclidBody s.k).r1, (euclidBody s.k).s1, (euclidBody s.k).t1, toNat_r1_euclidBody s.k,
    toInt_nextCoeff lowS highS, toInt_nextCoeff lowT highT, ?_⟩
  rintro t rfl
  have more : euclidMore s.k = true := (euclidMore_iff s.k).2 (mt (toNat_eq_zero_iff _).1 ne)
  exact ⟨exec_of_more (i := .gcd src) rfl more, exec_of_more (i := .egcd src) rfl more,
    exec_of_more (i := .modinv src) rfl more⟩

/-- The invariant holds through the loop, and each `iterate` counts. -/
theorem EuclidInv.iterate (a b : Dword) (fresh : k.iter.toNat = 0) (within : j ≤ euclidSteps a.toNat b.toNat) :
    EuclidInv a.toNat b.toNat (euclidBody^[j] (euclidInit a b k)) ∧
      (euclidBody^[j] (euclidInit a b k)).iter.toNat = j := by
  induction j with
  | zero => exact ⟨EuclidInv.init a b fresh, fresh⟩
  | succ j ih =>
    obtain ⟨inv, count⟩ := ih (Nat.le_of_succ_le within)
    have more := inv.more_iff.2 (count.trans_lt within)
    rw [Function.iterate_succ_apply', inv.iter_euclidBody b.isLt more, count]
    exact ⟨inv.step a.isLt b.isLt more, rfl⟩

/-- Settles O24: under the invariant the loop's end is reached when all the steps are counted, and not before. -/
theorem euclidIterationEqualsTheRecursion : Obligations.EuclidIterationEqualsTheRecursion := by
  intro a b k0 fresh
  have fresh : k0.iter.toNat = 0 := (toNat_eq_zero_iff _).2 fresh
  obtain ⟨inv, count⟩ := EuclidInv.iterate a b fresh le_rfl
  have done := Bool.eq_false_iff.2 (mt inv.more_iff.1 (by omega))
  obtain ⟨triple, -⟩ := inv.done done
  refine ⟨(euclidMore_eq_false_iff _).1 done, triple.symm, count, fun j before => ?_⟩
  obtain ⟨inv, count⟩ := EuclidInv.iterate a b fresh before.le
  exact mt (toNat_eq_zero_iff _).2 ((euclidMore_iff _).1 (inv.more_iff.2 (count.trans_lt before)))

/-! The commits (42_gcd_egcd_modinv.md R140, R145, R151). -/

/-- With its loop done and no error, a command's step is its commit. -/
theorem exec_of_done (result : kernelResult i s = .ok ws) (done : commandMore i s.k = false) :
    exec i s = .next (commitOk ws s) := by
  rw [exec_eq_engineStep, result, done, engineStep_done]

/-- At the loop's end the first remainder is the greatest common divisor. -/
theorem EuclidInv.toNat_r0 (h : EuclidInv a b k) (done : euclidMore k = false) : k.r0.toNat = Nat.gcd a b := by
  obtain ⟨triple, -⟩ := h.done done
  rw [← gcdOf_eq_gcd, gcdOf, triple]

/-- The verdict the commit writes is that of the greatest common divisor (R142). -/
theorem EuclidInv.coprimeVerdict_eq {a b : Dword} (h : EuclidInv a.toNat b.toNat k) (done : euclidMore k = false) :
    coprimeVerdict a.toNat b.toNat k.r0.toNat = decide (a ≠ 0 ∧ b ≠ 0 ∧ Nat.gcd a.toNat b.toNat = 1) := by
  rw [h.toNat_r0 done, Bool.eq_iff_iff]
  simp [coprimeVerdict, toNat_eq_zero_iff, and_assoc]

/-- `ITER` holds the count of the division steps. -/
theorem EuclidInv.toNat_iter (h : EuclidInv a b k) (done : euclidMore k = false) :
    (BitVec.ofNat 32 k.iter.toNat).toNat = euclidSteps a b := by
  obtain ⟨-, count⟩ := h.done done
  rw [← count, BitVec.toNat_ofNat]
  omega

/-- `EX`, `XS` and `EY`, `YS` hold the coefficients exactly (R145, R146). -/
theorem EuclidInv.tc65Value_coefficients (h : EuclidInv a b k) (fitsA : a < 2 ^ 64) (fitsB : b < 2 ^ 64) :
    tc65Value (tc65Low k.s0.toInt) (tc65Sign k.s0.toInt) = k.s0.toInt ∧
      tc65Value (tc65Low k.t0.toInt) (tc65Sign k.t0.toInt) = k.t0.toInt :=
  ⟨tc65Value_tc65 (h.boundS0.trans_lt (max_lt fitsB (by decide))),
    tc65Value_tc65 (h.boundT0.trans_lt (max_lt fitsA (by decide)))⟩

/-- The committed triple is the recursion's. -/
theorem EuclidInv.committed_triple (h : EuclidInv a b k) (fitsA : a < 2 ^ 64) (fitsB : b < 2 ^ 64)
    (done : euclidMore k = false) :
    (k.r0.toNat, tc65Value (tc65Low k.s0.toInt) (tc65Sign k.s0.toInt),
      tc65Value (tc65Low k.t0.toInt) (tc65Sign k.t0.toInt)) = extendedGcd a b := by
  obtain ⟨x, y⟩ := h.tc65Value_coefficients fitsA fitsB
  obtain ⟨triple, -⟩ := h.done done
  rw [x, y, triple]

/-- Settles O12: the first remainder is the divisor, and the verdict is taken of it. -/
theorem gcdCommitsDivisorAndVerdict : Obligations.GcdCommitsDivisorAndVerdict := by
  intro src s last inv
  have done := (euclidMore_eq_false_iff s.k).2 last
  refine ⟨s.k.r0, _, inv.toNat_r0 done, inv.toNat_iter done, ?_⟩
  rw [exec_of_done (i := .gcd src) rfl done, ← inv.coprimeVerdict_eq done]
  rfl

/-- Settles O13: the registers hold the recursion's triple, and the first row of the invariant is its identity. -/
theorem egcdCommitsTheBezoutTriple : Obligations.EgcdCommitsTheBezoutTriple := by
  intro src s last inv
  have done := (euclidMore_eq_false_iff s.k).2 last
  refine ⟨s.k.r0, _, _, _, _, _, inv.committed_triple s.w.a.isLt s.w.b.isLt done, ?_, inv.toNat_iter done, ?_⟩
  · obtain ⟨x, y⟩ := inv.tc65Value_coefficients s.w.a.isLt s.w.b.isLt
    rw [x, y, inv.row0]
  · rw [exec_of_done (i := .egcd src) rfl done, ← inv.coprimeVerdict_eq done]
    rfl

/-- The normalised coefficient is the remainder that is not negative, and 0 for the modulus 0. -/
theorem inverseOf_toNat (x : Int) (m : Dword) : inverseOf x m.toNat = if m = 0 then 0 else x % m.toNat := by
  split
  · next zero => simp [inverseOf, zero]
  · next ne => exact inverseOf_eq_emod x (mt (toNat_eq_zero_iff m).1 ne)

/-- `RES` holds the normalised coefficient exactly: it is not negative, and below the modulus where that is not 0. -/
theorem toNat_ofInt_inverseOf (x : Int) (m : Dword) :
    ((BitVec.ofInt 64 (inverseOf x m.toNat)).toNat : Int) = inverseOf x m.toNat := by
  by_cases zero : m.toNat = 0
  · simp [inverseOf, zero]
  · have nonneg := Int.emod_nonneg x (Int.natCast_ne_zero.2 zero)
    have below := Int.emod_lt_of_pos x (Int.natCast_pos.2 (Nat.pos_of_ne_zero zero))
    have fits := m.isLt
    rw [inverseOf_eq_emod x zero, BitVec.toNat_ofInt]
    omega

/-- Settles O14: as for `EGCD`, with the first coefficient normalised by the modulus. -/
theorem modinvCommitsTheNormalisedCoefficient : Obligations.ModinvCommitsTheNormalisedCoefficient := by
  intro src s last inv
  have done := (euclidMore_eq_false_iff s.k).2 last
  refine ⟨BitVec.ofInt 64 (inverseOf s.k.s0.toInt s.w.m.toNat), s.k.r0, _, _, _, _, _, ?_,
    inv.committed_triple s.w.a.isLt s.w.m.isLt done, inv.toNat_iter done, ?_⟩
  · obtain ⟨triple, -⟩ := inv.done done
    rw [toNat_ofInt_inverseOf, inverseOf_toNat, triple]
  · rw [exec_of_done (i := .modinv src) rfl done, ← inv.coprimeVerdict_eq done]
    rfl

/-! The inverse (42_gcd_egcd_modinv.md R152). -/

/-- Of coprime operands the greatest common divisor is 1 (R142). -/
theorem gcdOf_of_coprime (h : coprime a b = true) : gcdOf a b = 1 := by
  simp only [coprime, coprimeVerdict, Bool.and_eq_true, beq_iff_eq] at h
  exact h.2

/-- Where the operands are coprime, the first coefficient is an inverse: the identity of R144, modulo the second
operand. -/
theorem mul_coefficient_emod (h : coprime a m = true) (large : 2 ≤ m) :
    (a : Int) * (extendedGcd a m).2.1 % m = 1 := by
  have identity := extendedGcd_bezout a m
  rw [← gcdOf, gcdOf_of_coprime h, Nat.cast_one] at identity
  rw [eq_sub_of_add_eq identity, Int.sub_mul_emod_self_left]
  exact Int.emod_eq_of_lt (by decide) (by exact_mod_cast large)

/-- The normalised coefficient is an inverse too, as it is the same modulo the modulus. -/
theorem mul_modularInverse_emod (h : coprime a m = true) (large : 2 ≤ m) :
    (a : Int) * modularInverse a m % m = 1 := by
  rw [modularInverse, inverseOf_eq_emod _ (by omega)]
  exact ((Int.mod_modEq _ _).mul_left _).eq.trans (mul_coefficient_emod h large)

/-- Settles O27: the step commits `outcome(w)`, whose result is `modularInverse` of the snapshot's operands. -/
theorem modinvResultIsTheInverse : Obligations.ModinvResultIsTheInverse := by
  intro src s t inv running h ends verdict large
  obtain ⟨run, decoded⟩ := running
  have turn := (engineTurn_running ⟨run, decoded⟩).trans h
  have commits := commitWritesTheOutcomeOfTheSnapshot s t inv run turn ends
  rw [outcome_of_decode decoded] at commits
  subst commits
  have result : ((BitVec.ofInt 64 (modularInverse s.w.a.toNat s.w.m.toNat)).toNat : Int) =
      modularInverse s.w.a.toNat s.w.m.toNat := toNat_ofInt_inverseOf _ s.w.m
  have inverse := mul_modularInverse_emod verdict large
  rw [← result] at inverse
  exact_mod_cast inverse

end Sys2Proof.Machine
end

section
/-! `MODEXP` and `MULMOD` (43_modexp_mulmod.md), the `iterate` that `MODEXP` shares with `FERMAT`, and the invariant of
the machine over every step (10_state.md R31, 70_reset_and_hazards.md R262). -/

namespace Sys2Proof.Machine

variable {s t : State} {src : OperandSource} {k : Kernel}

/-! The invariant of the machine, agent by agent. -/

/-- The invariant does not read what the host's transactions reach while a command runs, nor the schedule; it asks of
`DONE` only that it stay clear. -/
theorem Inv.of_host_fields {opa opb opm : Dword} {done ovr ie : Bool} {pending : List Action} {reply : Option Reply}
    (inv : Inv s) (clear : s.done = false → done = false) :
    Inv { s with
      opa := opa, opb := opb, opm := opm, done := done, ovr := ovr, ie := ie, pending := pending, reply := reply } where
  run phase := by
    obtain ⟨notDone, noError, word, kernel⟩ := inv.run phase
    exact ⟨clear notDone, noError, word, kernel⟩
  iterBound := inv.iterBound

@[simp] theorem commit_phase (r : CommandResult) (s : State) : (commit r s).phase = .idle := by cases r <;> rfl

/-- The engine's turn commits a count within the bound, or iterates on kernel registers that still agree. -/
theorem Inv.of_engineTurn (inv : Inv s) (turn : engineTurn s = .next t) : Inv t := by
  cases phase : s.phase with
  | idle =>
    cases (engineTurn_idle phase).symm.trans turn
    exact inv
  | run =>
    obtain ⟨notDone, noError, word, kernel⟩ := inv.run phase
    obtain ⟨-, commits⟩ | ⟨-, k, iterates, agrees, -⟩ := engineTurn_of_agrees phase kernel
    · cases commits.symm.trans turn
      refine ⟨fun runs => ?_, ?_⟩
      · cases (commit_phase _ s).symm.trans runs
      · rw [toNat_iter_commit_outcome]
        exact steps_outcome_le s.w
    · cases iterates.symm.trans turn
      exact ⟨fun _ => ⟨notDone, noError, word, agrees⟩, inv.iterBound⟩

/-- A transaction accepts a word, which starts a command that agrees, or leaves the running command alone. -/
theorem Inv.of_busStep (inv : Inv s) (tr : Transaction) : Inv (busStep tr s) := by
  obtain ⟨v, reply, -, -, eq⟩ | ⟨v, reply, -, -, eq⟩ | ⟨v, reply, -, eq⟩ | ⟨opa, opb, opm, ie, reply, eq⟩ :=
    busStep_cases tr s <;> rw [eq]
  · exact ⟨fun _ => ⟨rfl, rfl, rfl, kernelAgrees_accept v s⟩, inv.iterBound⟩
  · exact inv.of_host_fields id
  · exact inv.of_host_fields fun clear => by rw [writeStatus_done, clear, Bool.false_and]
  · exact inv.of_host_fields id

theorem inv_resetStep (s : State) : Inv (resetStep s) where
  run := nofun
  iterBound := Nat.zero_le _

/-- Settles O31: reset, the engine's turn and the host's transaction each keep the invariant, whatever is scheduled
after them. -/
theorem everyStepKeepsTheKernelInvariant : Obligations.EveryStepKeepsTheKernelInvariant := by
  intro s t inv h
  obtain ⟨rest, -, rfl⟩ | ⟨rest, -, turn⟩ | ⟨tr, rest, -, rfl⟩ := step_cases h
  · exact inv_resetStep _
  · exact Inv.of_engineTurn (s := { s with pending := rest }) (inv.of_host_fields id) turn
  · exact Inv.of_busStep (s := { s with pending := rest }) (inv.of_host_fields id) tr

/-! What the power commands commit, where they have no error (43_modexp_mulmod.md R160, R165, 41_fermat.md R130). -/

theorem modexpResult_of_ne (ne : s.w.m ≠ 0) : modexpResult s = .ok { res := some s.k.r, n := s.k.iter.toNat } :=
  if_neg ne

theorem mulmodResult_of_ne (ne : s.w.m ≠ 0) :
    mulmodResult s = .ok { res := some (mulMod s.w.a s.w.b s.w.m), n := 0 } :=
  if_neg ne

theorem fermatResult_of_ne (ne : s.w.a ≠ 0) :
    fermatResult s = .ok { res := some s.k.r, prime := some (primeVerdict s.k.r.toNat), n := s.k.iter.toNat } :=
  if_neg ne

/-- Settles O10: with the bit index at 0 the step is the commit of the command's outcome. -/
theorem modexpCommitsThePower : Obligations.ModexpCommitsThePower := by
  intro src s ne index inv
  refine ⟨BitVec.ofNat 64 (modexp s.w.a.toNat s.w.b.toNat s.w.m.toNat), BitVec.ofNat 32 (bitlen s.w.b.toNat),
    toNat_ofNat_mod ne _, inv.toNat_ofNat_bitlen, ?_⟩
  have agrees : CommandAgrees (.modexp src) s.w s.k := fun _ => inv
  rw [agrees.exec_eq_commit ((powerMore_eq_false_iff s.k).2 index), commandOutcome_modexp, if_neg ne]
  rfl

/-! One `iterate` of the square-and-multiply datapath (43_modexp_mulmod.md R161, 41_fermat.md R131). -/

/-- The bit that an `iterate` consumes, as a digit of the exponent. -/
theorem testBit_i_powerBody (e : Nat) (more : powerMore k = true) :
    e.testBit (powerBody k).i.toNat = true ↔ e / 2 ^ (k.i.toNat - 1) % 2 = 1 := by
  rw [Nat.testBit_eq_decide_div_mod_eq, decide_eq_true_eq, ← toNat_i_powerBody more, Nat.add_sub_cancel]

/-- Settles O15: the step is `powerBody`, whose running result is exact. -/
theorem powerIterateConsumesOneBit : Obligations.PowerIterateConsumesOneBit := by
  intro src s left modulus
  have more : powerMore s.k = true := (powerMore_iff s.k).2 (mt (toNat_eq_zero_iff _).1 left)
  refine ⟨(powerBody s.k).r, ?_, fun ne => exec_of_more (i := .modexp src) (modexpResult_of_ne ne) more,
    fun ne => exec_of_more (i := .fermat src) (fermatResult_of_ne ne) more⟩
  rw [toNat_r_powerBody modulus]
  exact ite_congr (propext (testBit_i_powerBody _ more)) (fun _ => rfl) fun _ => rfl

/-- Settles O9: the command has no loop, and its result is the exact remainder. -/
theorem mulmodCommitsTheExactRemainder : Obligations.MulmodCommitsTheExactRemainder :=
  fun src s ne => ⟨mulMod s.w.a s.w.b s.w.m, toNat_mulMod _ _ ne,
    exec_of_done (i := .mulmod src) (mulmodResult_of_ne ne) rfl⟩

end Sys2Proof.Machine
end

section
/-! The host's key generation (44_host_keygen.md): what its commands leave in the registers, which draw a search
answers, and what the answered keys meet. -/

namespace Sys2Proof.Machine

variable {i : Instr} {s : State} {range : DrawRange} {test : Nat → Bool} {params : KeyParams}
  {draws rest drawsC drawsE restC restE : List Nat} {answer : Option KeyPairState} {t : KeyPairState} {keys : KeyPair}
  {key : Key} {p q e c x m phi tries : Nat}

/-! The commands (44_host_keygen.md R181, R184 to R186, 45_host_block_pipeline.md R201). -/

theorem commit_with_reply (r : CommandResult) (reply : Option Reply) (s : State) :
    commit r { s with reply := reply } = { commit r s with reply := reply } := by
  cases r <;> rfl

theorem asField_encode (i : Instr) : asField (encode i) = i.source := by
  obtain ⟨-, rfl | own⟩ := decodeWord_ok_fields (decodeWord_encode i)
  · rfl
  · exact own.symm

/-- A command of an operand register, written to an idle block and left to the engine, ends in the commit of its
outcome on the operand registers. -/
theorem opaCommand_runs_to_commit (source : i.source = .opa) (idle : s.phase = .idle) (alone : s.pending = []) :
    ∃ (n : Nat) (w : Snapshot) (k : Kernel), core.run n (busStep (.write 0x00 .b4 (encode i)) s) =
      .next { commit (commandOutcome i { cmd := encode i, a := s.opa, b := s.opb, m := s.opm }) s with
        cmd := encode i, w := w, k := k, reply := some .ack } := by
  obtain ⟨t, runs, ends, -⟩ := microStepsEndInTheBigStep (encode i) { s with reply := some .ack } idle alone
  have accepted : busStep (.write 0x00 .b4 (encode i)) s = accept (encode i) { s with reply := some .ack } := by
    rw [busStep_write_cmd, writeCmd_idle _ idle]
    rfl
  have operands : snapshot (encode i) { s with reply := some .ack } =
      { cmd := encode i, a := s.opa, b := s.opb, m := s.opm } := by
    rw [snapshot, asField_encode, source]
    rfl
  have decoded : outcome { cmd := encode i, a := s.opa, b := s.opb, m := s.opm } = commandOutcome i _ :=
    outcome_of_decode (decodeWord_encode i)
  rw [operands, commit_with_reply, decoded] at ends
  exact ⟨_, _, t.k, (congrArg (core.run _) accepted).trans (runs.trans (congrArg _ ends))⟩

/-- The verdict `FERMAT` commits is the acceptance test (41_fermat.md R130, R132). -/
theorem primeVerdict_eq_fermatAccepts (ne : c ≠ 0) : primeVerdict (modexp 2 (c - 1) c) = fermatAccepts c := by
  simp [fermatAccepts, ne]

/-- Settles O55: each command's write runs to the commit of its outcome, which is the contract's value. -/
theorem commandsCarryTheHostContracts : Obligations.CommandsCarryTheHostContracts := by
  intro s idle alone
  have runs {i : Instr} (source : i.source = .opa) := opaCommand_runs_to_commit source idle alone
  refine ⟨fun ne => ?_, ?_, ?_, fun ne => ?_, ?_⟩
  · obtain ⟨n, w, k, fermat⟩ := runs (i := .fermat .opa) rfl
    rw [commandOutcome_fermat, if_neg ne] at fermat
    exact ⟨n, _, fermat, rfl, rfl, rfl, primeVerdict_eq_fermatAccepts (mt (toNat_eq_zero_iff _).1 ne)⟩
  · obtain ⟨n, w, k, gcd⟩ := runs (i := .gcd .opa) rfl
    exact ⟨n, _, gcd, rfl, rfl, rfl, rfl⟩
  · obtain ⟨n, w, k, modinv⟩ := runs (i := .modinv .opa) rfl
    exact ⟨n, _, modinv, rfl, rfl, rfl, toNat_ofInt_inverseOf _ s.opm⟩
  · obtain ⟨n, w, k, mulmod⟩ := runs (i := .mulmod .opa) rfl
    rw [commandOutcome_mulmod, if_neg ne] at mulmod
    exact ⟨n, _, mulmod, rfl, rfl, rfl, toNat_mulMod s.opa s.opb ne⟩
  · obtain ⟨n, w, k, modexp⟩ := runs (i := .modexp .opa) rfl
    rw [commandOutcome_modexp] at modexp
    by_cases zero : s.opm = 0
    · rw [if_pos zero] at modexp
      exact ⟨n, _, modexp, rfl, rfl, (if_pos zero).symm⟩
    · rw [if_neg zero] at modexp
      exact ⟨n, _, modexp, rfl, rfl, (if_neg zero).symm⟩

/-! The searches (44_host_keygen.md R180, R184). -/

/-- A search answers the first draw of its range that passes its test, and what comes after it. -/
theorem searchDraws_eq_some_iff :
    searchDraws range test draws = some (c, rest) ↔
      ∃ before, draws = before ++ c :: rest ∧ (range.contains c && test c) = true ∧
        ∀ x ∈ before, (range.contains x && test x) = false := by
  induction draws with
  | nil => simp [searchDraws]
  | cons d draws ih =>
    rw [searchDraws]
    constructor
    · split
      · next passes =>
        intro found
        cases found
        exact ⟨[], rfl, passes, nofun⟩
      · next fails =>
        intro found
        obtain ⟨before, eq, passes, passedOver⟩ := ih.1 found
        exact ⟨d :: before, by rw [eq, List.cons_append], passes,
          List.forall_mem_cons.2 ⟨Bool.eq_false_iff.2 fails, passedOver⟩⟩
    · rintro ⟨before, eq, passes, passedOver⟩
      cases before with
      | nil =>
        cases eq
        rw [if_pos passes]
      | cons x before =>
        cases eq
        obtain ⟨fails, passedOver⟩ := List.forall_mem_cons.1 passedOver
        rw [fails]
        exact ih.2 ⟨before, rfl, passes, passedOver⟩

/-- A candidate of the configured range is not 0, so that the test is the residue's (R181). -/
theorem candidate_passes_iff :
    ((candidateRange params).contains c && fermatAccepts c) = true ↔
      2 ^ params.lowBits ≤ c ∧ c < 2 ^ params.highBits ∧ 2 ^ (c - 1) % c = 1 := by
  rw [Bool.and_eq_true, DrawRange.contains_iff, and_assoc]
  refine and_congr_right fun low => and_congr_right fun _ => ?_
  exact fermatAccepts_iff (Nat.pos_iff_ne_zero.1 (Nat.one_le_two_pow.trans low))

theorem coprime_eq_true_iff (a b : Nat) : coprime a b = true ↔ a ≠ 0 ∧ b ≠ 0 ∧ Nat.gcd a b = 1 := by
  simp [coprime, coprimeVerdict, gcdOf_eq_gcd, and_assoc]

theorem exponent_passes_iff :
    ((exponentRange params).contains e && coprime e phi) = true ↔
      e < 2 ^ params.eBits ∧ e ≠ 0 ∧ phi ≠ 0 ∧ Nat.gcd e phi = 1 := by
  simp [exponentRange, coprime_eq_true_iff]

/-- Settles O56: both searches by `searchDraws_eq_some_iff`, with each test in numbers. -/
theorem searchesAnswerTheFirstDrawThatPasses : Obligations.SearchesAnswerTheFirstDrawThatPasses := by
  refine ⟨fun params draws rest c => ?_, fun params phi draws rest e => ?_⟩
  · rw [generatePrime, searchDraws_eq_some_iff]
    simp only [candidate_passes_iff, ← Bool.not_eq_true, not_and, and_assoc]
  · rw [drawExponent, searchDraws_eq_some_iff]
    simp only [exponent_passes_iff, ← Bool.not_eq_true, not_and_or, not_ne_iff, imp_iff_not_or, and_assoc]

/-! The key builder (44_host_keygen.md R183 to R187). -/

/-- What an attempt draws: two candidates that pass the base-2 test and an exponent coprime to `phi`, each in its
configured range (R184). -/
structure Drawn (params : KeyParams) (drawsC drawsE : List Nat) (p q e : Nat) : Prop where
  memP : p ∈ drawsC
  memQ : q ∈ drawsC
  memE : e ∈ drawsE
  passesP : ((candidateRange params).contains p && fermatAccepts p) = true
  passesQ : ((candidateRange params).contains q && fermatAccepts q) = true
  passesE : ((exponentRange params).contains e && coprime e ((p - 1) * (q - 1))) = true

theorem Drawn.mono (h : Drawn params restC restE p q e) (subC : restC ⊆ drawsC) (subE : restE ⊆ drawsE) :
    Drawn params drawsC drawsE p q e :=
  { h with memP := subC h.memP, memQ := subC h.memQ, memE := subE h.memE }

/-- What an attempt answers is the drawn tuple, where it is admitted and accepted (R184 to R186), and the draws left. -/
theorem attempt_some (h : attempt params drawsC drawsE = some (answer, restC, restE)) :
    restC ⊆ drawsC ∧ restE ⊆ drawsE ∧ ∃ p q e, Drawn params drawsC drawsE p q e ∧
      answer = if primesAdmitted params p q && acceptChecks (keyPairState p q e) then some (keyPairState p q e)
        else none := by
  simp only [attempt, bind, Option.bind_eq_some_iff, Prod.exists] at h
  obtain ⟨p, afterP, drawP, q, afterQ, drawQ, e, afterE, drawE, result⟩ := h
  obtain ⟨memP, rangeP, acceptP, leftP⟩ := searchDraws_some drawP
  obtain ⟨memQ, rangeQ, acceptQ, leftQ⟩ := searchDraws_some drawQ
  obtain ⟨memE, rangeE, acceptE, leftE⟩ := searchDraws_some drawE
  cases result
  exact ⟨List.Subset.trans leftQ leftP, leftE, p, q, e,
    ⟨memP, leftP memQ, memE, by rw [rangeP, acceptP]; rfl, by rw [rangeQ, acceptQ]; rfl, by rw [rangeE, acceptE]; rfl⟩,
    rfl⟩

/-- A tuple the retry loop answers was drawn, admitted and accepted in one attempt. -/
theorem retryAttempts_some (h : retryAttempts params tries drawsC drawsE = some t) :
    ∃ p q e, Drawn params drawsC drawsE p q e ∧ t = keyPairState p q e ∧ primesAdmitted params p q = true ∧
      acceptChecks t = true := by
  induction tries generalizing drawsC drawsE with
  | zero => cases h
  | succ tries ih =>
    rw [retryAttempts] at h
    split at h
    · cases h
    · next accepted =>
      obtain ⟨-, -, p, q, e, drawn, answer⟩ := attempt_some accepted
      split at answer
      · next passes =>
        cases h
        cases answer
        obtain ⟨admitted, checks⟩ := Bool.and_eq_true_iff.1 passes
        exact ⟨p, q, e, drawn, rfl, admitted, checks⟩
      · cases answer
    · next rejected =>
      obtain ⟨subC, subE, -⟩ := attempt_some rejected
      obtain ⟨p, q, e, drawn, tuple⟩ := ih h
      exact ⟨p, q, e, drawn.mono subC subE, tuple⟩

/-- A key of RAK64 holds its two integers exactly (45_host_block_pipeline.md R207). -/
theorem keyOf_some (h : keyOf x m = some key) : key.exponent.toNat = x ∧ key.modulus.toNat = m := by
  unfold keyOf at h
  split at h
  · next fits =>
    cases h
    exact ⟨Nat.mod_eq_of_lt fits.1, Nat.mod_eq_of_lt fits.2⟩
  · cases h

theorem emitKeys_some (h : emitKeys t = some keys) :
    keys.publicKey.exponent.toNat = t.e ∧ keys.publicKey.modulus.toNat = t.n ∧
      keys.privateKey.exponent.toNat = t.d ∧ keys.privateKey.modulus.toNat = t.n := by
  simp only [emitKeys, bind, Option.bind_eq_some_iff] at h
  obtain ⟨publicKey, isPublic, privateKey, isPrivate, result⟩ := h
  obtain ⟨e, nPublic⟩ := keyOf_some isPublic
  obtain ⟨d, nPrivate⟩ := keyOf_some isPrivate
  cases result
  exact ⟨e, nPublic, d, nPrivate⟩

/-- The seven checks in numbers (R186). -/
theorem acceptChecks_eq_true_iff :
    acceptChecks t = true ↔
      (t.phi ≠ 0 ∧ t.e * t.d % t.phi = 1) ∧ t.e ≠ 0 ∧ t.d ≠ 0 ∧ t.d ≠ 1 ∧ t.e ≠ 1 ∧ t.e ≠ t.d ∧
        (2 ^ t.e % t.n) ^ t.d % t.n = 2 := by
  simp [acceptChecks, modexp, and_assoc]

theorem primesAdmitted_eq_true_iff :
    primesAdmitted params p q = true ↔ (params.rejectEqualPrimes = true → p ≠ q) := by
  simp [primesAdmitted, imp_iff_not_or]

/-- Settles O57: the answered keys are those of a tuple that one attempt drew, admitted and accepted. -/
theorem acceptedKeysMeetTheSevenChecks : Obligations.AcceptedKeysMeetTheSevenChecks := by
  intro params tries drawsC drawsE keys built
  obtain ⟨t, retried, emitted⟩ := Option.bind_eq_some_iff.1 built
  obtain ⟨p, q, e, drawn, rfl, admitted, checks⟩ := retryAttempts_some retried
  obtain ⟨publicE, publicN, privateD, privateN⟩ := emitKeys_some emitted
  obtain ⟨lowP, highP, testP⟩ := candidate_passes_iff.1 drawn.passesP
  obtain ⟨lowQ, highQ, testQ⟩ := candidate_passes_iff.1 drawn.passesQ
  obtain ⟨highE, -, -, gcd⟩ := exponent_passes_iff.1 drawn.passesE
  obtain ⟨⟨-, inverse⟩, e0, d0, d1, e1, ed, roundTrip⟩ := acceptChecks_eq_true_iff.1 checks
  exact ⟨p, q, _, _, e, _, publicE, publicN, privateD, privateN, drawn.memP, drawn.memQ, drawn.memE,
    lowP, highP, lowQ, highQ, highE, testP, testQ, rfl, rfl, gcd, inverse, Nat.pos_of_ne_zero e0,
    Nat.pos_of_ne_zero d0, d1, e1, ed, roundTrip, primesAdmitted_eq_true_iff.1 admitted⟩

end Sys2Proof.Machine
end

section
/-! The host's block pipeline (45_host_block_pipeline.md): the padding and the block codec with their inverses, the block
written to the window, and decryption against encryption. -/

namespace Sys2Proof.Machine

variable {n : Nat} {bytes : List Byte} {off : BitVec 7} {key : Key}

/-! Zero extension (45_host_block_pipeline.md R197, R198). -/

theorem zeroExtendTo_of_whole (whole : bytes.length % n = 0) : zeroExtendTo n bytes = bytes := by
  simp [zeroExtendTo, whole]

theorem length_zeroExtendTo_mod (pos : 0 < n) (bytes : List Byte) : (zeroExtendTo n bytes).length % n = 0 := by
  have short : bytes.length % n ≤ n := (Nat.mod_lt _ pos).le
  rw [zeroExtendTo, List.length_append, List.length_replicate, Nat.add_mod_mod, ← Nat.mod_add_mod,
    Nat.add_sub_cancel' short, Nat.mod_self]

/-! The padding (45_host_block_pipeline.md R195 to R197). -/

theorem length_padGroups : ∀ {bytes : List Byte}, bytes.length % 4 = 0 → (padGroups bytes).length = 2 * bytes.length
  | [], _ => rfl
  | _ :: _ :: _ :: _ :: rest, whole => by
    have tail := length_padGroups (bytes := rest) ((Nat.add_mod_right _ 4).symm.trans whole)
    simp only [padGroups, List.length_cons, tail]
    omega

theorem unpad_padGroups : ∀ {bytes : List Byte}, bytes.length % 4 = 0 → unpad (padGroups bytes) = bytes
  | [], _ => rfl
  | _ :: _ :: _ :: _ :: rest, whole => by
    rw [padGroups, unpad, unpad_padGroups (bytes := rest) ((Nat.add_mod_right _ 4).symm.trans whole)]

theorem unpad_pad (bytes : List Byte) : unpad (pad bytes) = zeroExtendTo 4 bytes :=
  unpad_padGroups (length_zeroExtendTo_mod (by decide) bytes)

theorem length_pad (bytes : List Byte) : (pad bytes).length = 2 * (zeroExtendTo 4 bytes).length :=
  length_padGroups (length_zeroExtendTo_mod (by decide) bytes)

theorem length_pad_mod (bytes : List Byte) : (pad bytes).length % 8 = 0 := by
  have whole := length_zeroExtendTo_mod (n := 4) (by decide) bytes
  rw [length_pad]
  omega

/-- Settles O51: the round trip is the zero extension, which adds nothing to whole groups. -/
theorem unpadInvertsPad : Obligations.UnpadInvertsPad := by
  intro bytes
  have atMostThree : (4 - bytes.length % 4) % 4 ≤ 3 := Nat.le_of_lt_succ (Nat.mod_lt _ (by decide))
  refine ⟨fun whole => ?_, ⟨_, atMostThree, unpad_pad bytes⟩, length_pad_mod bytes⟩
  rw [unpad_pad, length_pad, zeroExtendTo_of_whole whole]
  exact ⟨rfl, rfl⟩

/-! The block codec (45_host_block_pipeline.md R198, R199). -/

theorem bytesOfBlock_eq (d : Dword) :
    bytesOfBlock d =
      [byteOf d 8 0, byteOf d 8 1, byteOf d 8 2, byteOf d 8 3, byteOf d 8 4, byteOf d 8 5, byteOf d 8 6, byteOf d 8 7] :=
  rfl

theorem bytesOfBlock_blockOfBytes (b0 b1 b2 b3 b4 b5 b6 b7 : Byte) :
    bytesOfBlock (blockOfBytes b0 b1 b2 b3 b4 b5 b6 b7) = [b0, b1, b2, b3, b4, b5, b6, b7] := by
  unfold blockOfBytes
  simp (disch := decide) only [bytesOfBlock_eq, byteOf, BitVec.extractLsb'_append_eq_of_le,
    BitVec.extractLsb'_append_eq_of_add_le]
  simp

theorem blockOfBytes_byteOf (d : Dword) :
    blockOfBytes (byteOf d 8 0) (byteOf d 8 1) (byteOf d 8 2) (byteOf d 8 3) (byteOf d 8 4) (byteOf d 8 5)
      (byteOf d 8 6) (byteOf d 8 7) = d := by
  unfold blockOfBytes byteOf
  simp (disch := decide) only [BitVec.extractLsb'_append_extractLsb'_eq_extractLsb']
  exact BitVec.extractLsb'_eq_self

theorem blocksToBytes_wholeBlocks : ∀ {bytes : List Byte}, bytes.length % 8 = 0 →
    blocksToBytes (wholeBlocks bytes) = bytes
  | [], _ => rfl
  | _ :: _ :: _ :: _ :: _ :: _ :: _ :: _ :: rest, whole => by
    have tail := blocksToBytes_wholeBlocks (bytes := rest) ((Nat.add_mod_right _ 8).symm.trans whole)
    rw [blocksToBytes] at tail ⊢
    rw [wholeBlocks, List.flatMap_cons, tail, bytesOfBlock_blockOfBytes]
    rfl

theorem blocksToBytes_bytesToBlocks (bytes : List Byte) : blocksToBytes (bytesToBlocks bytes) = zeroExtendTo 8 bytes :=
  blocksToBytes_wholeBlocks (length_zeroExtendTo_mod (by decide) bytes)

theorem length_blocksToBytes (blocks : List Dword) : (blocksToBytes blocks).length = 8 * blocks.length := by
  simp [blocksToBytes, bytesOfBlock_eq, List.length_flatMap, Nat.mul_comm]

theorem wholeBlocks_blocksToBytes (blocks : List Dword) : wholeBlocks (blocksToBytes blocks) = blocks := by
  induction blocks with
  | nil => rfl
  | cons d rest ih =>
    calc wholeBlocks (blocksToBytes (d :: rest))
        = blockOfBytes (byteOf d 8 0) (byteOf d 8 1) (byteOf d 8 2) (byteOf d 8 3) (byteOf d 8 4) (byteOf d 8 5)
            (byteOf d 8 6) (byteOf d 8 7) :: wholeBlocks (blocksToBytes rest) := rfl
      _ = d :: rest := by rw [blockOfBytes_byteOf, ih]

theorem bytesToBlocks_blocksToBytes (blocks : List Dword) : bytesToBlocks (blocksToBytes blocks) = blocks := by
  have whole : (blocksToBytes blocks).length % 8 = 0 := by rw [length_blocksToBytes, Nat.mul_mod_right]
  rw [bytesToBlocks, zeroExtendTo_of_whole whole, wholeBlocks_blocksToBytes]

/-- Settles O52: eight bytes and their block determine each other. -/
theorem blockCodecRoundTrips : Obligations.BlockCodecRoundTrips :=
  ⟨blocksToBytes_bytesToBlocks, bytesToBlocks_blocksToBytes⟩

/-! A block in the window (45_host_block_pipeline.md R198, 20_memory.md R63). -/

theorem valueByte_setWidth (b : Byte) : valueByte (b.setWidth 32) 1 0 = b := by
  rw [valueByte, ← BitVec.setWidth_eq_extractLsb' (by decide)]
  exact BitVec.setWidth_setWidth_of_le b (by decide)

/-- Every byte of `OPA` can be accessed alone. -/
theorem byteAccess_opa : ∀ off : BitVec 7, 0x10 ≤ off.toNat → off.toNat < 0x18 →
    legalAccess off .b1 = true ∧ regAt off.toNat = some (.opa, off.toNat - 0x10) := by decide

theorem opa_busStep_write_byte (low : 0x10 ≤ off.toNat) (high : off.toNat < 0x18) (b : Byte) (s : State) :
    (busStep (.write off .b1 (b.setWidth 32)) s).opa = setByte s.opa (off.toNat - 0x10) b := by
  obtain ⟨legal, first⟩ := byteAccess_opa off low high
  rw [busStep_write_legal _ s legal first]
  exact congrArg (setByte s.opa (off.toNat - 0x10)) (valueByte_setWidth b)

/-- Settles O53: each write sets its byte of `OPA`, and the block is made up of the eight. -/
theorem blockBytesWrittenInOrderGiveTheBlock : Obligations.BlockBytesWrittenInOrderGiveTheBlock := by
  intro b0 b1 b2 b3 b4 b5 b6 b7 s put
  simp (disch := decide) only [put, opa_busStep_write_byte, BitVec.reduceToNat, Nat.reduceSub]
  rw [← blockOfBytes_byteOf (setByte _ 7 b7)]
  simp [byteOf_setByte]

/-! The cipher (45_host_block_pipeline.md R201 to R203). -/

/-- What a key whose modulus is not 0 makes of a block (45_host_block_pipeline.md R201). -/
def cipherBlock (key : Key) (block : Dword) : Dword :=
  BitVec.ofNat 64 (modexp block.toNat key.exponent.toNat key.modulus.toNat)

theorem transform_of_ne (ne : key.modulus ≠ 0) (blocks : List Dword) :
    transform blocks key = some (blocks.map (cipherBlock key)) := by
  have each : transformBlock key = fun block => pure (cipherBlock key block) := funext fun _ => if_neg ne
  rw [transform, each, List.mapM_pure]
  rfl

theorem toNat_cipherBlock (ne : key.modulus ≠ 0) (block : Dword) :
    (cipherBlock key block).toNat = block.toNat ^ key.exponent.toNat % key.modulus.toNat := by
  have pos : 0 < key.modulus.toNat := BitVec.toNat_pos_of_ne_zero ne
  have below := Nat.mod_lt (block.toNat ^ key.exponent.toNat) pos
  rw [cipherBlock, modexp, BitVec.toNat_ofNat, Nat.mod_eq_of_lt (below.trans key.modulus.isLt)]

/-- A block comes back where its powers do (45_host_block_pipeline.md R203). -/
theorem cipherBlock_cipherBlock {e d m v : Dword} (ne : m ≠ 0)
    (back : (v.toNat ^ e.toNat % m.toNat) ^ d.toNat % m.toNat = v.toNat) :
    cipherBlock ⟨d, m⟩ (cipherBlock ⟨e, m⟩ v) = v := by
  apply BitVec.eq_of_toNat_eq
  rw [toNat_cipherBlock ne, toNat_cipherBlock ne, back]

/-- Settles O54: the blocks of the padded buffer come back one by one, and with them the padded buffer. That they are
below the modulus follows from their coming back, which is a remainder. -/
theorem decryptUndoesEncrypt : Obligations.DecryptUndoesEncrypt := by
  intro e d m bytes ne whole roundTrips
  have padded : blocksToBytes (bytesToBlocks (pad bytes)) = pad bytes := by
    rw [blocksToBytes_bytesToBlocks, zeroExtendTo_of_whole (length_pad_mod bytes)]
  have undone : ((bytesToBlocks (pad bytes)).map (cipherBlock ⟨e, m⟩)).map (cipherBlock ⟨d, m⟩) =
      bytesToBlocks (pad bytes) := by
    rw [List.map_map]
    exact (List.map_congr_left fun v hv => cipherBlock_cipherBlock ne (roundTrips v hv).2).trans (List.map_id _)
  refine ⟨blocksToBytes ((bytesToBlocks (pad bytes)).map (cipherBlock ⟨e, m⟩)), ?_, ?_, ?_⟩
  · rw [encrypt, transform_of_ne ne, Option.map_some]
  · rw [length_blocksToBytes, List.length_map, ← length_blocksToBytes, padded, length_pad, zeroExtendTo_of_whole whole]
  · rw [decrypt, bytesToBlocks_blocksToBytes, transform_of_ne ne, undone, Option.map_some, padded, unpad_pad,
      zeroExtendTo_of_whole whole]

end Sys2Proof.Machine
end

section
/-! The exceptions (60_exceptions.md): the error entry, the error code of every commit, and the interrupt level. -/

namespace Sys2Proof.Machine

variable {i : Instr} {s t : State} {c : CmdError} {w : Word}

/-! The error conditions (60_exceptions.md R216, R218). -/

theorem modexpResult_of_zero (zero : s.w.m = 0) : modexpResult s = .error .modZero := if_pos zero

theorem mulmodResult_of_zero (zero : s.w.m = 0) : mulmodResult s = .error .modZero := if_pos zero

theorem fermatResult_of_zero (zero : s.w.a = 0) : fermatResult s = .error .modZero := if_pos zero

/-- With an error condition a command's step is the error entry, whatever its loop has still to do
(40_command_lifecycle.md R113). -/
theorem exec_of_error (result : kernelResult i s = .error c) : exec i s = .next (raiseError c s) := by
  rw [exec_eq_engineStep, result, engineStep_error]

/-- The words that are not legal are those the decoder refuses (30_encoding.md R94). -/
theorem decodeWord_illegal_of_legalWord_eq_false (h : legalWord w = false) : ∃ e, decodeWord w = .illegal e := by
  refine (decoderRefusesExactlyTheIllegalWords w).2 ?_
  simpa [legalWord, reservedBitsClear, opcodeAssigned, Decidable.imp_iff_not_or] using h

/-- Settles O17: each is an error entry, and `raiseError` writes the four fields alone. -/
theorem errorEntryWritesOnlyErrIterDonePhase : Obligations.ErrorEntryWritesOnlyErrIterDonePhase := by
  refine ⟨fun src s zero => ⟨?_, ?_⟩, fun src s zero => ?_, fun s run illegal => ?_⟩
  · exact exec_of_error (i := .modexp src) (modexpResult_of_zero zero)
  · exact exec_of_error (i := .mulmod src) (mulmodResult_of_zero zero)
  · exact exec_of_error (i := .fermat src) (fermatResult_of_zero zero)
  · obtain ⟨e, refused⟩ := decodeWord_illegal_of_legalWord_eq_false illegal
    exact engineTurn_illegal run refused

/-! The error code of a commit (60_exceptions.md R216). -/

/-- The turn that ends a command commits `ILLCMD` for a word the decoder refuses, and else the command's result. -/
theorem engineTurn_commits (run : s.phase = .run) (turn : engineTurn s = .next t) (ends : t.phase = .idle) :
    (∃ e, decodeWord s.w.cmd = .illegal e ∧ t = commit (.error .illCmd) s) ∨
    (∃ i, decodeWord s.w.cmd = .ok i ∧ t = commit (kernelResult i s) s) := by
  obtain ⟨idle, -⟩ | ⟨i, ⟨-, decoded⟩, step⟩ | ⟨e, -, refused, eq⟩ := engineTurn_cases turn
  · cases run.symm.trans idle
  · obtain ⟨c, result, eq⟩ | ⟨ws, -, -, rfl⟩ | ⟨ws, result, -, eq⟩ := exec_cases step
    · exact .inr ⟨i, decoded, by rw [result]; exact eq⟩
    · cases run.symm.trans ends
    · exact .inr ⟨i, decoded, by rw [result]; exact eq⟩
  · exact .inl ⟨e, refused, eq⟩

/-- The opcode of a decoded word is its command's (30_encoding.md R95). -/
theorem opcode_of_decodeWord (h : decodeWord w = .ok i) : w.toNat % 2 ^ 4 = i.opcode.toNat := by
  obtain ⟨-, refused⟩ | ⟨-, -, refused⟩ | ⟨-, -, j, answer, opcode, -⟩ := decodeWord_cases w
  · cases refused.symm.trans h
  · cases refused.symm.trans h
  · cases answer.symm.trans h
    rw [← toNat_opcodeField, opcode]

/-- The code a command's commit leaves, by its opcode: `MODEXP` and `MULMOD` test the modulus, `FERMAT` its candidate,
the others nothing. -/
theorem errCode_commit_kernelResult (i : Instr) (s : State) :
    errCode (commit (kernelResult i s) s).err =
      if (i.opcode.toNat = 1 ∨ i.opcode.toNat = 2) ∧ s.w.m = 0 then 2#3
      else if i.opcode.toNat = 6 ∧ s.w.a = 0 then 2#3
      else 0#3 := by
  cases i with
  | nop | gcd | egcd | modinv => rfl
  | modexp src =>
    by_cases zero : s.w.m = 0
    · rw [kernelResult, modexpResult_of_zero zero, if_pos ⟨.inl rfl, zero⟩]
      rfl
    · rw [kernelResult, modexpResult_of_ne zero, if_neg (fun h => zero h.2)]
      rfl
  | mulmod src =>
    by_cases zero : s.w.m = 0
    · rw [kernelResult, mulmodResult_of_zero zero, if_pos ⟨.inr rfl, zero⟩]
      rfl
    · rw [kernelResult, mulmodResult_of_ne zero, if_neg (fun h => zero h.2)]
      rfl
  | fermat src =>
    by_cases zero : s.w.a = 0
    · rw [kernelResult, fermatResult_of_zero zero, if_neg (by simp [Instr.opcode]), if_pos ⟨rfl, zero⟩]
      rfl
    · rw [kernelResult, fermatResult_of_ne zero, if_neg (by simp [Instr.opcode]), if_neg (fun h => zero h.2)]
      rfl

/-- Settles O18: a refused word is an illegal one, and a decoded word's commit is its command's. -/
theorem commitErrorCodesAreExact : Obligations.CommitErrorCodesAreExact := by
  intro s t run turn ends
  have refused := decoderRefusesExactlyTheIllegalWords s.w.cmd
  obtain ⟨e, illegal, rfl⟩ | ⟨i, decoded, rfl⟩ := engineTurn_commits run turn ends
  · rw [if_pos (refused.1 ⟨e, illegal⟩)]
    rfl
  · have legal := mt refused.2 fun ⟨e, illegal⟩ => by cases decoded.symm.trans illegal
    rw [if_neg legal, opcode_of_decodeWord decoded, errCode_commit_kernelResult]

/-! The interrupt level (10_state.md R43, 60_exceptions.md R223, R230). -/

/-- Every commit sets `DONE`, so the level is `IE`, error or not. -/
theorem irq_commit (r : CommandResult) (s : State) : irq (commit r s) = s.ie := by
  cases r <;> exact Bool.and_true s.ie

theorem irq_eq_false_of_done (clear : s.done = false) : irq s = false := by
  rw [irq, clear, Bool.and_false]

theorem busStep_write_status (v : Word) (s : State) :
    busStep (.write 0x04 .b4 v) s = { writeStatus v s with reply := some .ack } :=
  busStep_write_legal (r := .status) (k := 0) v s (by decide) (by decide)

/-- Settles O48: every commit sets `DONE`; accept and the acknowledge clear it. -/
theorem irqFollowsDoneAndEnable : Obligations.IrqFollowsDoneAndEnable := by
  refine ⟨fun s => Bool.and_eq_true_iff, fun s t run turn ends => ?_, fun s v idle => ?_, fun s => ?_⟩
  · obtain ⟨e, -, rfl⟩ | ⟨i, -, rfl⟩ := engineTurn_commits run turn ends
    · exact irq_commit _ s
    · exact irq_commit _ s
  · rw [busStep_write_cmd, writeCmd_idle v idle]
    exact irq_eq_false_of_done rfl
  · rw [busStep_write_status]
    exact irq_eq_false_of_done (Bool.and_false s.done)

end Sys2Proof.Machine
end

section
/-! Reset and progress (70_reset_and_hazards.md): the reset step, and how many of the engine's steps a running command
takes to its commit. -/

namespace Sys2Proof.Machine

variable {i : Instr} {w : Snapshot}

/-- Settles O35: the reset step takes nothing from the state but the schedule. -/
theorem resetStepDiscardsARunningCommand : Obligations.ResetStepDiscardsARunningCommand := by
  intro s rest scheduled
  refine ⟨Snapshot.reset, Kernel.reset, ?_⟩
  rw [step_scheduled scheduled]
  rfl

/-! The bound on the steps of a command outside the gcd family (70_reset_and_hazards.md R262). -/

/-- Such a command counts the bits of a 64-bit exponent, or nothing. -/
theorem steps_commandOutcome_le_maxPowerSteps (w : Snapshot)
    (noGcd : ∀ src, i ≠ .gcd src ∧ i ≠ .egcd src ∧ i ≠ .modinv src) :
    (commandOutcome i w).steps ≤ Config.maxPowerSteps := by
  cases i with
  | nop => exact Nat.zero_le _
  | modexp src =>
    rw [commandOutcome_modexp]
    split
    · exact Nat.zero_le _
    · exact bitlen_le w.b.isLt
  | mulmod src =>
    rw [commandOutcome_mulmod]
    split <;> exact Nat.zero_le _
  | gcd src => exact absurd rfl (noGcd src).1
  | egcd src => exact absurd rfl (noGcd src).2.1
  | modinv src => exact absurd rfl (noGcd src).2.2
  | fermat src =>
    rw [commandOutcome_fermat]
    split
    · exact Nat.zero_le _
    · exact bitlen_le ((Nat.sub_le _ _).trans_lt w.a.isLt)

theorem steps_outcome_le_maxPowerSteps
    (noGcd : ∀ src, decodeWord w.cmd ≠ .ok (.gcd src) ∧ decodeWord w.cmd ≠ .ok (.egcd src) ∧
      decodeWord w.cmd ≠ .ok (.modinv src)) :
    (outcome w).steps ≤ Config.maxPowerSteps := by
  cases decoded : decodeWord w.cmd with
  | ok i =>
    rw [outcome_of_decode decoded]
    exact steps_commandOutcome_le_maxPowerSteps w (by simpa [decoded] using noGcd)
  | illegal e =>
    rw [outcome_of_illegal decoded]
    exact Nat.zero_le _

/-- A commit of either arm sets `DONE` (40_command_lifecycle.md R114, 60_exceptions.md R217). -/
@[simp] theorem commit_done (r : CommandResult) (s : State) : (commit r s).done = true := by cases r <;> rfl

/-- Settles O23: the invariant ties the kernel registers to the snapshot, so that the command takes one `iterate` for
each step of `outcome(w)` it has not counted yet, and then commits. -/
theorem everyRunningCommandCommits : Obligations.EveryRunningCommandCommits := by
  intro s inv run alone
  obtain ⟨⟨k, commits⟩, -⟩ := core_run_of_agrees _ run alone (inv.run run).kernel rfl
  have left : (outcome s.w).steps - s.k.iter.toNat ≤ (outcome s.w).steps := Nat.sub_le _ _
  exact ⟨_, _, Nat.succ_le_succ (left.trans (steps_outcome_le s.w)), commits, commit_phase _ _, commit_done _ _,
    fun noGcd => Nat.succ_le_succ (left.trans (steps_outcome_le_maxPowerSteps noGcd))⟩

end Sys2Proof.Machine
end
